-- ==== Sys2Proof/Word.lean ====
section
/-! DEFINITION. The widths of the machine: bytes, 16-bit words, the 4-bit and 12-bit instruction fields. -/

namespace Sys2Proof

/-- An 8-bit value: a general register, a timer, a byte of memory (10_state.md R20, R26, R30). -/
abbrev Byte := BitVec 8

/-- A 16-bit value: an instruction word, `I`, `PC`, a stack entry (10_state.md R22, R23, R24). -/
abbrev Word := BitVec 16

/-- A 4-bit field of the instruction word (30_encoding.md R71). -/
abbrev Nibble := BitVec 4

/-- A 12-bit address immediate, the field `NNN` (30_encoding.md R71). -/
abbrev Addr := BitVec 12

/-- The number of a general register: always 0..15 (30_encoding.md R86). -/
abbrev Reg := Fin 16

end Sys2Proof
end

