-- ==== Sys2Proof/Syntax.lean ====
section
/-! DEFINITION. The instructions: one constructor per row of the opcode map (30_encoding.md R83). A constructor
carries every bit of its word below the bits that select it, the ignored ones included, so that a word and its
instruction determine each other; which fields are ignored is said at the constructor. -/

namespace Sys2Proof

/-- The 38 rows of the opcode map. -/
inductive Instr where
  /-- `00E0` CLS (43_display.md R140); bits 11:4 are ignored (30_encoding.md R76). -/
  | cls (ignored : Byte)
  /-- `00EE` RET (41_jump_call.md R112); bits 11:4 are ignored (30_encoding.md R76). -/
  | ret (ignored : Byte)
  /-- `1nnn` JP nnn (41_jump_call.md R110). -/
  | jpNnn (nnn : Addr)
  /-- `2nnn` CALL nnn (41_jump_call.md R111). -/
  | callNnn (nnn : Addr)
  /-- `3xkk` SE Vx, kk (40_skip.md R101). -/
  | seVxKk (x : Reg) (kk : Byte)
  /-- `4xkk` SNE Vx, kk (40_skip.md R102). -/
  | sneVxKk (x : Reg) (kk : Byte)
  /-- `5xy0` SE Vx, Vy (40_skip.md R103); the low nibble is ignored (30_encoding.md R80). -/
  | seVxVy (x y : Reg) (ignored : Nibble)
  /-- `6xkk` LD Vx, kk (42_alu.md R131). -/
  | ldVxKk (x : Reg) (kk : Byte)
  /-- `7xkk` ADD Vx, kk (42_alu.md R133). -/
  | addVxKk (x : Reg) (kk : Byte)
  /-- `8xy0` LD Vx, Vy (42_alu.md R122). -/
  | ldVxVy (x y : Reg)
  /-- `8xy1` OR Vx, Vy (42_alu.md R123). -/
  | orVxVy (x y : Reg)
  /-- `8xy2` AND Vx, Vy (42_alu.md R124). -/
  | andVxVy (x y : Reg)
  /-- `8xy3` XOR Vx, Vy (42_alu.md R125). -/
  | xorVxVy (x y : Reg)
  /-- `8xy4` ADD Vx, Vy (42_alu.md R126). -/
  | addVxVy (x y : Reg)
  /-- `8xy5` SUB Vx, Vy (42_alu.md R127). -/
  | subVxVy (x y : Reg)
  /-- `8xy6` SHR Vx (42_alu.md R128); `Y` is encoded but not used. -/
  | shrVx (x : Reg) (ignored : Reg)
  /-- `8xy7` SUBN Vx, Vy (42_alu.md R129). -/
  | subnVxVy (x y : Reg)
  /-- `8xyE` SHL Vx (42_alu.md R130); `Y` is encoded but not used. -/
  | shlVx (x : Reg) (ignored : Reg)
  /-- `9xy0` SNE Vx, Vy (40_skip.md R104); the low nibble is ignored (30_encoding.md R80). -/
  | sneVxVy (x y : Reg) (ignored : Nibble)
  /-- `Annn` LD I, nnn (44_index_memory.md R150). -/
  | ldINnn (nnn : Addr)
  /-- `Bnnn` JP V0, nnn (41_jump_call.md R113). -/
  | jpV0Nnn (nnn : Addr)
  /-- `Cxkk` RND Vx, kk (42_alu.md R132). -/
  | rndVxKk (x : Reg) (kk : Byte)
  /-- `Dxyn` DRW Vx, Vy, n (43_display.md R141); `n` is the row count 0..15. -/
  | drwVxVyN (x y : Reg) (n : Nibble)
  /-- `Ex9E` SKP Vx (40_skip.md R105). -/
  | skpVx (x : Reg)
  /-- `ExA1` SKNP Vx (40_skip.md R106). -/
  | sknpVx (x : Reg)
  /-- `Fx07` LD Vx, DT (45_timer_key.md R160). -/
  | ldVxDt (x : Reg)
  /-- `Fx0A` LD Vx, K (45_timer_key.md R163). -/
  | ldVxK (x : Reg)
  /-- `Fx15` LD DT, Vx (45_timer_key.md R161). -/
  | ldDtVx (x : Reg)
  /-- `Fx18` LD ST, Vx (45_timer_key.md R162). -/
  | ldStVx (x : Reg)
  /-- `Fx1E` ADD I, Vx (44_index_memory.md R151). -/
  | addIVx (x : Reg)
  /-- `Fx29` LD F, Vx (44_index_memory.md R152). -/
  | ldFVx (x : Reg)
  /-- `Fx33` LD B, Vx (44_index_memory.md R153). -/
  | ldBVx (x : Reg)
  /-- `Fx55` LD [I], Vx (44_index_memory.md R154). -/
  | ldMemVx (x : Reg)
  /-- `Fx65` LD Vx, [I] (44_index_memory.md R155). -/
  | ldVxMem (x : Reg)
  /-- `0nnn` SYS nnn, a no-op (46_unassigned.md R171); the low nibble is neither 0 nor E. -/
  | sysNnn (nnn : Addr)
  /-- `8xyN` unassigned, a no-op (46_unassigned.md R172); `n` in 8, 9, A, B, C, D, F. -/
  | nop8 (x y : Reg) (n : Nibble)
  /-- `ExKK` unassigned, a no-op (46_unassigned.md R173); `kk` neither 9E nor A1. -/
  | nopE (x : Reg) (kk : Byte)
  /-- `FxKK` unassigned, a no-op (46_unassigned.md R174); `kk` none of the nine assigned bytes. -/
  | nopF (x : Reg) (kk : Byte)
  deriving DecidableEq, Repr

end Sys2Proof
end

