-- ==== Sys2Proof/WellFormed.lean ====
section
/-! DEFINITION. Which instruction terms stand for a word: all but the no-ops whose sub-opcode is one that
an assigned instruction takes (30_encoding.md R76 to R79, 46_unassigned.md R171 to R174). -/

namespace Sys2Proof

/-- The sub-opcodes `N` of family 0x8 with no handler (46_unassigned.md R172). -/
def unassigned8 : List Nibble := [0x8, 0x9, 0xA, 0xB, 0xC, 0xD, 0xF]

/-- The sub-opcode bytes of family 0xE with a handler (30_encoding.md R78). -/
def assignedE : List Byte := [0x9E, 0xA1]

/-- The sub-opcode bytes of family 0xF with a handler (30_encoding.md R79). -/
def assignedF : List Byte := [0x07, 0x0A, 0x15, 0x18, 0x1E, 0x29, 0x33, 0x55, 0x65]

/-- The check an instruction term must pass to be the instruction of some word. -/
def Instr.wellFormed : Instr → Bool
  | .cls _ | .ret _ | .jpNnn _ | .callNnn _ | .seVxKk _ _ | .sneVxKk _ _ | .seVxVy _ _ _ => true
  | .ldVxKk _ _ | .addVxKk _ _ | .ldVxVy _ _ | .orVxVy _ _ | .andVxVy _ _ | .xorVxVy _ _ => true
  | .addVxVy _ _ | .subVxVy _ _ | .shrVx _ _ | .subnVxVy _ _ | .shlVx _ _ | .sneVxVy _ _ _ => true
  | .ldINnn _ | .jpV0Nnn _ | .rndVxKk _ _ | .drwVxVyN _ _ _ | .skpVx _ | .sknpVx _ => true
  | .ldVxDt _ | .ldVxK _ | .ldDtVx _ | .ldStVx _ | .addIVx _ | .ldFVx _ | .ldBVx _ => true
  | .ldMemVx _ | .ldVxMem _ => true
  | .sysNnn nnn => nnn.extractLsb' 0 4 != 0x0#4 && nnn.extractLsb' 0 4 != 0xE#4
  | .nop8 _ _ n => unassigned8.contains n
  | .nopE _ kk => !assignedE.contains kk
  | .nopF _ kk => !assignedF.contains kk

end Sys2Proof
end

