-- ==== Sys2Proof/Decode.lean ====
section
/-! DEFINITION. From bytes to instructions and back: the fields of the instruction word (30_encoding.md R71),
the two-level dispatch (R75 to R81), the encoder, and the bytes of an instruction in memory (20_memory.md R54). -/

namespace Sys2Proof

namespace Bits

/-- `OP`, bits 15:12: the opcode family. -/
def op (w : Word) : Nibble := w.extractLsb' 12 4

/-- `X`, bits 11:8: the first register operand. -/
def x (w : Word) : Reg := ⟨(w.extractLsb' 8 4).toNat, (w.extractLsb' 8 4).isLt⟩

/-- `Y`, bits 7:4: the second register operand. -/
def y (w : Word) : Reg := ⟨(w.extractLsb' 4 4).toNat, (w.extractLsb' 4 4).isLt⟩

/-- `N`, bits 3:0: the low nibble. -/
def n (w : Word) : Nibble := w.extractLsb' 0 4

/-- `KK`, bits 7:0: the low byte. -/
def kk (w : Word) : Byte := w.extractLsb' 0 8

/-- `NNN`, bits 11:0: the 12-bit address immediate. -/
def nnn (w : Word) : Addr := w.extractLsb' 0 12

/-- Bits 11:4, the ignored ones of format Z (30_encoding.md R72). -/
def mid (w : Word) : Byte := w.extractLsb' 4 8

end Bits

/-- Family 0x0 dispatches on the low nibble only (30_encoding.md R76). -/
def decodeFamily0 (w : Word) : Instr :=
  match (Bits.n w).toNat with
  | 0x0 => .cls (Bits.mid w)
  | 0xE => .ret (Bits.mid w)
  | _ => .sysNnn (Bits.nnn w)

/-- Family 0x8 dispatches on the low nibble: nine operations, the rest no-ops (30_encoding.md R77). -/
def decodeFamily8 (w : Word) : Instr :=
  match (Bits.n w).toNat with
  | 0x0 => .ldVxVy (Bits.x w) (Bits.y w)
  | 0x1 => .orVxVy (Bits.x w) (Bits.y w)
  | 0x2 => .andVxVy (Bits.x w) (Bits.y w)
  | 0x3 => .xorVxVy (Bits.x w) (Bits.y w)
  | 0x4 => .addVxVy (Bits.x w) (Bits.y w)
  | 0x5 => .subVxVy (Bits.x w) (Bits.y w)
  | 0x6 => .shrVx (Bits.x w) (Bits.y w)
  | 0x7 => .subnVxVy (Bits.x w) (Bits.y w)
  | 0xE => .shlVx (Bits.x w) (Bits.y w)
  | _ => .nop8 (Bits.x w) (Bits.y w) (Bits.n w)

/-- Family 0xE dispatches on the whole low byte (30_encoding.md R78). -/
def decodeFamilyE (w : Word) : Instr :=
  if Bits.kk w = 0x9E#8 then .skpVx (Bits.x w)
  else if Bits.kk w = 0xA1#8 then .sknpVx (Bits.x w)
  else .nopE (Bits.x w) (Bits.kk w)

/-- Family 0xF dispatches on the whole low byte: nine operations, the rest no-ops (30_encoding.md R79). -/
def decodeFamilyF (w : Word) : Instr :=
  if Bits.kk w = 0x07#8 then .ldVxDt (Bits.x w)
  else if Bits.kk w = 0x0A#8 then .ldVxK (Bits.x w)
  else if Bits.kk w = 0x15#8 then .ldDtVx (Bits.x w)
  else if Bits.kk w = 0x18#8 then .ldStVx (Bits.x w)
  else if Bits.kk w = 0x1E#8 then .addIVx (Bits.x w)
  else if Bits.kk w = 0x29#8 then .ldFVx (Bits.x w)
  else if Bits.kk w = 0x33#8 then .ldBVx (Bits.x w)
  else if Bits.kk w = 0x55#8 then .ldMemVx (Bits.x w)
  else if Bits.kk w = 0x65#8 then .ldVxMem (Bits.x w)
  else .nopF (Bits.x w) (Bits.kk w)

/-- The instruction of a word: the first level selects a family by `OP` alone (30_encoding.md R75, R80). Total:
every one of the 65536 words has a defined effect (R81). The last arm is `OP` = 0xF. -/
def decode (w : Word) : Instr :=
  match (Bits.op w).toNat with
  | 0x0 => decodeFamily0 w
  | 0x1 => .jpNnn (Bits.nnn w)
  | 0x2 => .callNnn (Bits.nnn w)
  | 0x3 => .seVxKk (Bits.x w) (Bits.kk w)
  | 0x4 => .sneVxKk (Bits.x w) (Bits.kk w)
  | 0x5 => .seVxVy (Bits.x w) (Bits.y w) (Bits.n w)
  | 0x6 => .ldVxKk (Bits.x w) (Bits.kk w)
  | 0x7 => .addVxKk (Bits.x w) (Bits.kk w)
  | 0x8 => decodeFamily8 w
  | 0x9 => .sneVxVy (Bits.x w) (Bits.y w) (Bits.n w)
  | 0xA => .ldINnn (Bits.nnn w)
  | 0xB => .jpV0Nnn (Bits.nnn w)
  | 0xC => .rndVxKk (Bits.x w) (Bits.kk w)
  | 0xD => .drwVxVyN (Bits.x w) (Bits.y w) (Bits.n w)
  | 0xE => decodeFamilyE w
  | _ => decodeFamilyF w

/-- The word of two bytes, the byte at the lower address the more significant (20_memory.md R54). -/
def wordOfBytes (hi lo : Byte) : Word := hi ++ lo

/-- The two bytes of a word as they lie in memory, the first at the lower address (20_memory.md R54). -/
def bytesOfWord (w : Word) : List Byte := [w.extractLsb' 8 8, w.extractLsb' 0 8]

/-- Why the decoder refuses a byte string: it is shorter than an instruction. No word is refused. -/
inductive DecodeError where
  /-- Fewer than two bytes are left (30_encoding.md R70). -/
  | truncated
  deriving DecidableEq, Repr

/-- One instruction off the front of a byte string, with the bytes left over (30_encoding.md R70). -/
def decodeBytes : List Byte → Except DecodeError (Instr × List Byte)
  | hi :: lo :: rest => .ok (decode (wordOfBytes hi lo), rest)
  | _ => .error .truncated

/-! ### The encoder -/

/-- The bits of a register field. -/
def regBits (r : Reg) : Nibble := BitVec.ofNat 4 r.val

/-- Format A: `OP`, `NNN` (30_encoding.md R72). -/
def wordA (op : Nibble) (nnn : Addr) : Word := op ++ nnn

/-- Formats XK and XS: `OP`, `X`, `KK` (30_encoding.md R72). -/
def wordXK (op : Nibble) (x : Reg) (kk : Byte) : Word := op ++ regBits x ++ kk

/-- Formats XY and XYN: `OP`, `X`, `Y`, `N` (30_encoding.md R72). -/
def wordXYN (op : Nibble) (x y : Reg) (n : Nibble) : Word := op ++ regBits x ++ regBits y ++ n

/-- Format Z: `OP` = 0, ignored bits 11:4, `N` (30_encoding.md R72). -/
def wordZ (ignored : Byte) (n : Nibble) : Word := 0x0#4 ++ ignored ++ n

/-- The word of an instruction (30_encoding.md R72, R83). -/
def encode : Instr → Word
  | .cls u => wordZ u 0x0
  | .ret u => wordZ u 0xE
  | .jpNnn nnn => wordA 0x1 nnn
  | .callNnn nnn => wordA 0x2 nnn
  | .seVxKk x kk => wordXK 0x3 x kk
  | .sneVxKk x kk => wordXK 0x4 x kk
  | .seVxVy x y n => wordXYN 0x5 x y n
  | .ldVxKk x kk => wordXK 0x6 x kk
  | .addVxKk x kk => wordXK 0x7 x kk
  | .ldVxVy x y => wordXYN 0x8 x y 0x0
  | .orVxVy x y => wordXYN 0x8 x y 0x1
  | .andVxVy x y => wordXYN 0x8 x y 0x2
  | .xorVxVy x y => wordXYN 0x8 x y 0x3
  | .addVxVy x y => wordXYN 0x8 x y 0x4
  | .subVxVy x y => wordXYN 0x8 x y 0x5
  | .shrVx x y => wordXYN 0x8 x y 0x6
  | .subnVxVy x y => wordXYN 0x8 x y 0x7
  | .shlVx x y => wordXYN 0x8 x y 0xE
  | .sneVxVy x y n => wordXYN 0x9 x y n
  | .ldINnn nnn => wordA 0xA nnn
  | .jpV0Nnn nnn => wordA 0xB nnn
  | .rndVxKk x kk => wordXK 0xC x kk
  | .drwVxVyN x y n => wordXYN 0xD x y n
  | .skpVx x => wordXK 0xE x 0x9E
  | .sknpVx x => wordXK 0xE x 0xA1
  | .ldVxDt x => wordXK 0xF x 0x07
  | .ldVxK x => wordXK 0xF x 0x0A
  | .ldDtVx x => wordXK 0xF x 0x15
  | .ldStVx x => wordXK 0xF x 0x18
  | .addIVx x => wordXK 0xF x 0x1E
  | .ldFVx x => wordXK 0xF x 0x29
  | .ldBVx x => wordXK 0xF x 0x33
  | .ldMemVx x => wordXK 0xF x 0x55
  | .ldVxMem x => wordXK 0xF x 0x65
  | .sysNnn nnn => wordA 0x0 nnn
  | .nop8 x y n => wordXYN 0x8 x y n
  | .nopE x kk => wordXK 0xE x kk
  | .nopF x kk => wordXK 0xF x kk

/-- The bytes of an instruction in memory (20_memory.md R54). -/
def encodeBytes (i : Instr) : List Byte := bytesOfWord (encode i)

/-! ### The opcode table's words -/

/-- The word that the opcode table's bits make: `nbits` bits of `w`, every bit above them 0. -/
def tableWord (nbits w : Nat) : Word := BitVec.ofNat 16 (w % 2 ^ nbits)

/-- What the decoder reads from the bytes of an opcode-table word, laid out as memory holds them. -/
def decodeTableWord (nbits w : Nat) : Option Instr :=
  match decodeBytes (bytesOfWord (tableWord nbits w)) with
  | .ok (i, _) => some i
  | .error _ => none

end Sys2Proof
end

