-- ==== Sys2Proof/Config.lean ====
section
/-! DEFINITION. The constants of the block (00_scope.md R6) and its one free value. The two parameters that
a model takes as arguments with a default, `FONT_BASE` and `FONT`, are `Params` of Machine/Font.lean. -/

namespace Sys2Proof.Config

/-- `MEM_SIZE`: bytes of memory, addresses 0x000 to 0xFFF. -/
abbrev memSize : Nat := 4096

/-- `PROG_BASE`: where a program is loaded and where execution starts. -/
abbrev progBase : Nat := 0x200

/-- `ROM_MAX`: the largest program. -/
abbrev romMax : Nat := 3584

/-- `STACK_DEPTH`: entries of the call stack. -/
abbrev stackDepth : Nat := 16

/-- `NKEYS`: keypad latches. -/
abbrev nKeys : Nat := 16

/-- `FB_W`: columns of the framebuffer. -/
abbrev fbWidth : Nat := 64

/-- `FB_H`: rows of the framebuffer. -/
abbrev fbHeight : Nat := 32

/-- `INSN_LEN`: bytes of an instruction. -/
abbrev insnLen : Nat := 2

/-- `GLYPH_LEN`: bytes of a font glyph. -/
abbrev glyphLen : Nat := 5

/-- `FONT_LEN`: bytes of the font table. -/
abbrev fontLen : Nat := 80

/-- `PIXEL_ON`: a lit cell as the presentation layer reads it. -/
abbrev pixelOn : BitVec 32 := 0xFFFFFFFF#32

/-- `PIXEL_OFF`: an unlit cell as the presentation layer reads it. -/
abbrev pixelOff : BitVec 32 := 0x00000000#32

/-- The random byte of the `n`-th draw when the driver has lined none up (42_alu.md R132: "a model must allow
*every* value 0..255 for it"). A FREE VALUE: nothing can evaluate it. DESIGN CHOICE, safe: log 1. -/
opaque freeRandomByte : Nat → Byte

end Sys2Proof.Config
end

