-- ==== Sys2Proof/Machine/Font.lean ====
section
/-! DEFINITION. The two parameters of the block that a model takes as arguments with a default: `FONT_BASE` (D3) and
`FONT[0..79]` (D4), with their defaults (00_scope.md R6; logs 2 and 3). -/

namespace Sys2Proof.Machine

/-- The default of `FONT_BASE` (00_scope.md R6, D3; log 2). -/
def defaultFontBase : Fin 433 := 0x050

/-- The default of `FONT`: 16 glyphs of 5 bytes, glyph `d` the picture of the digit `d` (20_memory.md R60, D4;
log 3). -/
def defaultFont : Vector Byte 80 := Vector.mk
  (([0xF0, 0x90, 0x90, 0x90, 0xF0] ++ [0x20, 0x60, 0x20, 0x20, 0x70] ++
  [0xF0, 0x10, 0xF0, 0x80, 0xF0] ++ [0xF0, 0x10, 0xF0, 0x10, 0xF0] ++
  [0x90, 0x90, 0xF0, 0x10, 0x10] ++ [0xF0, 0x80, 0xF0, 0x10, 0xF0] ++
  [0xF0, 0x80, 0xF0, 0x90, 0xF0] ++ [0xF0, 0x10, 0x20, 0x40, 0x40] ++
  [0xF0, 0x90, 0xF0, 0x90, 0xF0] ++ [0xF0, 0x90, 0xF0, 0x10, 0xF0] ++
  [0xF0, 0x90, 0xF0, 0x90, 0x90] ++ [0xE0, 0x90, 0xE0, 0x90, 0xE0] ++
  [0xF0, 0x80, 0x80, 0x80, 0xF0] ++ [0xE0, 0x90, 0x90, 0x90, 0xE0] ++
  [0xF0, 0x80, 0xF0, 0x80, 0xF0] ++ [0xF0, 0x80, 0xF0, 0x80, 0x80] : List Byte).toArray) rfl

/-- The parameters a model takes as arguments (00_scope.md R6): `FONT_BASE`, any value with `FONT_BASE + 79` at most 0x1FF
(92_eei_decisions.md D3), and the 80 bytes of `FONT`. Fixed for the machine; no operation changes them. -/
structure Params where
  /-- `FONT_BASE`. -/
  fontBase : Fin 433 := defaultFontBase
  /-- `FONT[0]`..`FONT[79]`. -/
  font : Vector Byte 80 := defaultFont
  deriving DecidableEq, Repr

end Sys2Proof.Machine
end

