-- ==== Sys2Proof/Machine/State.lean ====
section
/-! DEFINITION. The architectural state (10_state.md R20 to R33), the state after reset (R35), and why a step
can stop. -/

namespace Sys2Proof.Machine

/-- The cause of a latched fault (60_exceptions.md R180); code 0, `NONE`, is the absence of a record. -/
inductive Cause where
  /-- Code 1, `ADDRESS_FAULT`: an address, key number or index-register sum is out of range (R181). -/
  | address
  /-- Code 2, `STACK_FAULT`: push on a full stack or pop from an empty one (R182). -/
  | stack
  deriving DecidableEq, Repr

/-- The record of a latched fault (10_state.md R32, 60_exceptions.md R183). -/
structure FaultRecord where
  /-- What kind of fault. -/
  cause : Cause
  /-- `pc0`, the address of the faulting instruction. -/
  pc : Word
  /-- The offending address, index or stack-pointer value, a natural number of at most 17 bits. -/
  info : Nat
  deriving DecidableEq, Repr

/-- The Virtual Machine State of the block. `params` is no state of the spec but its parameters, carried here so that `step`
has them (log 2). The last two fields are the MODEL's own: they stand for the input `rnd` of `cycle(rnd)` (42_alu.md
R132; log 1). -/
structure State where
  /-- `FONT_BASE` and `FONT` (00_scope.md R6); nothing changes them (log 2). -/
  params : Params
  /-- `V[0]`..`V[15]` (10_state.md R20). -/
  v : Vector Byte 16
  /-- `I` (10_state.md R22). -/
  index : Word
  /-- `PC` (10_state.md R23). -/
  pc : Word
  /-- `STACK[0]`..`STACK[15]` (10_state.md R24). -/
  stack : Vector Word 16
  /-- `SP`, the count of occupied entries, 0..16 (10_state.md R25). -/
  sp : Fin 17
  /-- `DT` (10_state.md R26). -/
  dt : Byte
  /-- `ST` (10_state.md R27). -/
  st : Byte
  /-- `KEY[0]`..`KEY[15]` (10_state.md R28); written by the host only. -/
  keys : Vector Bool 16
  /-- `FB`, one bit a cell: row `y` is element `y`, column `x` its bit `x`, lit = 1 (10_state.md R29; log 5). -/
  fb : Vector (BitVec 64) 32
  /-- `MEM`: the bytes that differ from the reset contents, addresses rising (10_state.md R30). -/
  mem : List Host.Cell
  /-- `FAULT`; `none` is `NONE` (10_state.md R32). -/
  fault : Option FaultRecord
  /-- The bytes the driver has lined up for the coming draws, the next one first (the model's own; log 1). -/
  rndIn : List Byte
  /-- How many random bytes have been drawn (the model's own; log 1). -/
  draws : Nat
  deriving DecidableEq, Repr

/-- Reasons to stop with a fault: NONE. Both faults of the spec latch a record that the spec describes whole, so
they are taken as a next state (60_exceptions.md R185, R186; log 4), and "R181 and R182 are the complete list of
faults" (R190). -/
inductive Fault where
  deriving DecidableEq, Repr

/-- Reasons to refuse an instruction. -/
inductive Refusal where
  /-- An instruction with no meaning in the model, by its mnemonic; raised by no arm of this model. Safe. -/
  | notModelled (mnemonic : String)
  deriving DecidableEq, Repr

/-- The state after `reset()` of a block with the parameters given (10_state.md R35): all zero, `PC` at the entry point, memory
at its reset contents (so nothing is listed), no fault. `rndIn` and `draws` are the model's own (log 1). -/
def State.resetWith (params : Params) : State where
  params := params
  v := Vector.replicate 16 0x00#8
  index := 0x0000#16
  pc := 0x0200#16
  stack := Vector.replicate 16 0x0000#16
  sp := 0
  dt := 0x00#8
  st := 0x00#8
  keys := Vector.replicate 16 false
  fb := Vector.replicate 32 0#64
  mem := []
  fault := none
  rndIn := []
  draws := 0

/-- The state after `reset()` of a block with the default parameters (00_scope.md R6). -/
def State.reset : State := State.resetWith {}

end Sys2Proof.Machine
end

