-- ==== Sys2Proof/Machine/Ops.lean ====
section
/-! DEFINITION. The named operations over memory, registers, stack, timers, keypad, framebuffer and the random
input; how a cycle ends (completed, faulted, waiting); fetch. -/

namespace Sys2Proof.Machine

/-- What a meaning and a step answer. -/
abbrev Result := Host.Outcome State Fault Refusal

/-- The numbers of the sixteen registers, and of the sixteen keys, in ascending order. -/
def sixteen : List (Fin 16) := [0, 1, 2, 3, 4, 5, 6, 7, 8, 9, 10, 11, 12, 13, 14, 15]

/-! ### Memory (20_memory.md) -/

/-- `MEM` in its canonical list form. -/
abbrev Memory := List Host.Cell

namespace Memory

/-- What an address that is not listed reads as: the reset contents, the font table at `FONT_BASE` and zero
everywhere else (10_state.md R35). Both are parameters (00_scope.md R6), so every memory operation is given them. -/
def unlisted (p : Params) (a : Nat) : Byte :=
  if p.fontBase.val ≤ a then p.font.toList.getD (a - p.fontBase.val) 0x00#8 else 0x00#8

/-- The byte at an address (20_memory.md R51, for an address in range). -/
def read (p : Params) : Memory → Nat → Byte
  | [], a => unlisted p a
  | (k, b) :: m, a => if k = a then b else read p m a

/-- Puts a byte into a rising list; a byte equal to the unlisted one is left out. -/
def insert (p : Params) : Memory → Nat → Byte → Memory
  | [], a, b => if b = unlisted p a then [] else [(a, b)]
  | (k, c) :: m, a, b =>
    if a < k then (if b = unlisted p a then (k, c) :: m else (a, b) :: (k, c) :: m)
    else if a = k then (if b = unlisted p a then m else (a, b) :: m)
    else (k, c) :: insert p m a b

/-- Stores a byte (20_memory.md R52); an address out of range has no cell, so nothing is written there. -/
def write (p : Params) (m : Memory) (a : Nat) (b : Byte) : Memory :=
  if a < Config.memSize then insert p m a b else m

/-- The `n` bytes from an address on, at ascending addresses. -/
def readBytes (p : Params) (m : Memory) (a : Nat) : Nat → List Byte
  | 0 => []
  | n + 1 => read p m a :: readBytes p m (a + 1) n

/-- Stores bytes at ascending addresses. -/
def writeBytes (p : Params) (m : Memory) (a : Nat) : List Byte → Memory
  | [] => m
  | b :: bs => writeBytes p (write p m a b) (a + 1) bs

/-- Every listed address is at least `low`, they rise, each exists, and none holds the unlisted byte. -/
def wfFrom (p : Params) (low : Nat) : Memory → Bool
  | [] => true
  | (k, b) :: m => decide (low ≤ k) && decide (k < Config.memSize) && decide (b ≠ unlisted p k) && wfFrom p (k + 1) m

/-- The canonical form of memory. -/
def wf (p : Params) (m : Memory) : Bool := wfFrom p 0 m

end Memory

/-- `CheckRange(addr, n)`: the lowest out-of-range address of `addr .. addr+n-1`, if there is one (20_memory.md R53). -/
def checkRange (a n : Nat) : Option Nat :=
  if 1 ≤ n ∧ 4095 < a + n - 1 then some (max a 4096) else none

/-! ### Registers (10_state.md R20, R21) -/

namespace State

/-- Read general register `x`. -/
def getV (s : State) (x : Reg) : Byte := s.v[x.val]

/-- Write general register `x`. -/
def setV (s : State) (x : Reg) (b : Byte) : State := { s with v := s.v.set x.val b }

end State

/-- The number of VF. -/
abbrev regVF : Reg := 15

/-- A flag as the byte VF receives: exactly 0 or 1 (10_state.md R21). -/
def flagByte (b : Bool) : Byte := if b then 0x01#8 else 0x00#8

namespace State

/-- The two writes of an instruction with a flag side effect: first the flag into VF, then the result into the
destination, so that a destination VF ends holding the result (42_alu.md R120). -/
def setFlagThenV (s : State) (x : Reg) (flag : Bool) (result : Byte) : State :=
  (s.setV regVF (flagByte flag)).setV x result

/-- `V[k] <- b` for each register of a list. -/
def setMany (s : State) : List (Reg × Byte) → State
  | [] => s
  | (k, b) :: rest => setMany (s.setV k b) rest

/-- Write the index register. -/
def setIndex (s : State) (w : Word) : State := { s with index := w }

/-- Write the program counter. -/
def setPc (s : State) (w : Word) : State := { s with pc := w }

/-- The address of the next sequential instruction, `pc0 + 2` (30_encoding.md R70, R74). -/
def nextPc (s : State) : Word := s.pc + 2#16

/-- The program counter moved past the instruction, as fetch leaves it (30_encoding.md R74). -/
def advance (s : State) : State := s.setPc s.nextPc

/-- The program counter moved past the instruction and the one after it: a taken skip (40_skip.md R100). -/
def skip (s : State) : State := s.setPc (s.nextPc + 2#16)

/-- Stores bytes to memory at ascending addresses. -/
def storeBytes (s : State) (a : Nat) (bs : List Byte) : State := { s with mem := Memory.writeBytes s.params s.mem a bs }

/-- Write the framebuffer. -/
def setFb (s : State) (fb : Vector (BitVec 64) 32) : State := { s with fb := fb }

/-- Write the delay timer. -/
def setDt (s : State) (b : Byte) : State := { s with dt := b }

/-- Write the sound timer. -/
def setSt (s : State) (b : Byte) : State := { s with st := b }

end State

/-- One timer's tick: down by one while greater than zero (60_exceptions.md R192). -/
def tickDown (b : Byte) : Byte := if b = 0x00#8 then 0x00#8 else b - 0x01#8

/-- Phase 3 of a completed cycle: both timers tick, each on its own (60_exceptions.md R192). -/
def State.tick (s : State) : State := { s with dt := tickDown s.dt, st := tickDown s.st }

/-! ### How a cycle ends (30_encoding.md R82) -/

/-- The instruction has executed and the timers tick: status `Done`. -/
def complete (s : State) : Result := .next s.tick

/-- The fault latch set to the record (`cause`, `pc0`, `info`) (60_exceptions.md R183). -/
def State.latch (s : State) (cause : Cause) (info : Nat) : State :=
  { s with fault := some { cause := cause, pc := s.pc, info := info } }

/-- TAKING A FAULT. The record (`cause`, `pc0`, `info`) is latched and nothing else changes, no timer tick
(60_exceptions.md R183, R185, R186). The state given is the one the cycle began with. -/
def raise (cause : Cause) (info : Nat) (s : State) : Result :=
  .next (s.latch cause info)

/-- A waiting cycle: no state changes (45_timer_key.md R163). -/
def keyWait (s : State) : Result := .next s

/-- An access of `n` bytes from `a` on: an addressing fault if a byte of it does not exist, before any effect
(20_memory.md R53, R67); otherwise the instruction goes on. -/
def withRange (a n : Nat) (s : State) (go : Result) : Result :=
  match checkRange a n with
  | some bad => raise .address bad s
  | none => go

/-! ### The call stack (10_state.md R24, R25) -/

namespace State

/-- Write the entry `SP` and count it; the stack is not full. -/
def push (s : State) (h : s.sp.val < 16) (w : Word) : State :=
  { s with stack := s.stack.set s.sp.val w, sp := ⟨s.sp.val + 1, Nat.succ_lt_succ h⟩ }

/-- The entry below `SP`, the one a pop reads; the stack is not empty. The entry is not cleared. -/
def top (s : State) (h : 0 < s.sp.val) : Word :=
  s.stack[s.sp.val - 1]'(by have := s.sp.isLt; omega)

/-- Count the entry below `SP` out. -/
def dropTop (s : State) : State :=
  { s with sp := ⟨s.sp.val - 1, Nat.lt_of_le_of_lt (Nat.sub_le _ _) s.sp.isLt⟩ }

/-! ### The keypad (10_state.md R28) -/

/-- Is the key held? -/
def key (s : State) (k : Fin 16) : Bool := s.keys[k.val]

/-- The least key that is held, if one is (45_timer_key.md R163). -/
def firstKey (s : State) : Option (Fin 16) := sixteen.find? s.key

/-! ### The random input (42_alu.md R132; log 1) -/

/-- The random byte of the next draw: the one the driver has lined up, or else a free value. -/
def rnd (s : State) : Byte :=
  match s.rndIn with
  | b :: _ => b
  | [] => Config.freeRandomByte s.draws

/-- The byte is drawn: the next draw gets another. -/
def consumeRnd (s : State) : State := { s with rndIn := s.rndIn.tail, draws := s.draws + 1 }

end State

/-! ### The framebuffer (10_state.md R29) -/

/-- A position on the screen: no other exists (43_display.md R141). -/
structure Pixel where
  /-- The column, left to right. -/
  x : Fin 64
  /-- The row, top to bottom. -/
  y : Fin 32
  deriving DecidableEq, Repr

/-- Rows of cells, one bit a cell. -/
abbrev Screen := Vector (BitVec 64) 32

namespace Screen

/-- Is the cell lit? -/
def lit (fb : Screen) (p : Pixel) : Bool := fb[p.y.val].getLsbD p.x.val

/-- Toggle a cell between lit and unlit. -/
def toggle (fb : Screen) (p : Pixel) : Screen := fb.set p.y.val (fb[p.y.val] ^^^ BitVec.twoPow 64 p.x.val)

/-- Every cell unlit. -/
def blank : Screen := Vector.replicate 32 0#64

/-- Toggle each pixel of a list in turn; the Boolean says whether one of them was lit when it was toggled
(43_display.md R141). -/
def blit : List Pixel → Screen → Screen × Bool
  | [], fb => (fb, false)
  | p :: ps, fb => ((blit ps (toggle fb p)).1, lit fb p || (blit ps (toggle fb p)).2)

end Screen

/-! ### Fetch (30_encoding.md R74) -/

/-- The instruction word at `PC`, or the address at which fetching it is an addressing fault. -/
def State.fetch (s : State) : Except Nat Word :=
  match checkRange s.pc.toNat 2 with
  | some bad => .error bad
  | none => .ok (wordOfBytes (Memory.read s.params s.mem s.pc.toNat) (Memory.read s.params s.mem (s.pc.toNat + 1)))

end Sys2Proof.Machine
end

