-- ==== Sys2Proof/Machine/Flags.lean ====
section
/-! DEFINITION. The flags an instruction writes into VF (10_state.md R21), and the 8-bit results beside them. -/

namespace Sys2Proof.Machine

/-- `8xy4`: the true sum passes 255 (42_alu.md R121, R126). -/
def carry (a b : Byte) : Bool := decide (255 < a.toNat + b.toNat)

/-- `8xy5`, `8xy7`: no borrow, equality included (42_alu.md R121, R127, R129). -/
def noBorrow (a b : Byte) : Bool := decide (b.toNat ≤ a.toNat)

/-- `8xy6`: bit 0, the bit shifted out to the right (42_alu.md R128). -/
def outRight (a : Byte) : Bool := a.getLsbD 0

/-- `8xyE`: bit 7, the bit shifted out to the left (42_alu.md R130). -/
def outLeft (a : Byte) : Bool := a.getLsbD 7

/-- `(a + b) mod 256` (42_alu.md R121). -/
def sum8 (a b : Byte) : Byte := a + b

/-- `(a - b) mod 256` (42_alu.md R121). -/
def diff8 (a b : Byte) : Byte := a - b

/-- `a div 2`, a zero shifted in (42_alu.md R128). -/
def half8 (a : Byte) : Byte := a >>> 1

/-- `(a * 2) mod 256`, a zero shifted in (42_alu.md R130). -/
def double8 (a : Byte) : Byte := a <<< 1

end Sys2Proof.Machine
end

