-- ==== Sys2Proof/Machine/Operands.lean ====
section
/-! DEFINITION. The operand forms: zero-extended address immediates, the two index-register sums, the decimal
digits, the register block of `Fx55`/`Fx65`, and the pixels of a sprite. -/

namespace Sys2Proof.Machine

/-- `zext_16(NNN)`: the 12-bit immediate as an absolute address (30_encoding.md R73). -/
def addrOf (nnn : Addr) : Word := nnn.setWidth 16

/-- The target of `Bnnn`: `NNN + V[0]`, kept at 16 bits (41_jump_call.md R113). -/
def jumpV0Target (nnn : Addr) (s : State) : Word := addrOf nnn + (s.getV 0).setWidth 16

/-- The effective address of byte 0 of an access through `I`, a natural number (20_memory.md R53). -/
abbrev indexAddr (s : State) : Nat := s.index.toNat

/-- `I + vx` over the naturals (44_index_memory.md R151). -/
abbrev indexSum (x : Reg) (s : State) : Nat := s.index.toNat + (s.getV x).toNat

/-- `FONT_BASE + 5 * vx` (44_index_memory.md R152). -/
abbrev glyphAddr (x : Reg) (s : State) : Nat := s.params.fontBase.val + 5 * (s.getV x).toNat

/-- The hundreds, tens and ones digits of a byte, one digit a byte (44_index_memory.md R153). -/
def bcdDigits (b : Byte) : List Byte :=
  [BitVec.ofNat 8 (b.toNat / 100), BitVec.ofNat 8 (b.toNat / 10 % 10), BitVec.ofNat 8 (b.toNat % 10)]

/-- Registers V0 to VX in ascending order (44_index_memory.md R154). -/
def regsUpTo (x : Reg) : List Reg := sixteen.take (x.val + 1)

/-- The pixels of one sprite row at column `x`, row `y`: those whose bit is 1, the most significant bit the
leftmost, each coordinate reduced to the screen (43_display.md R141, R142). -/
def rowPixels (b : Byte) (x y : Nat) : List Pixel :=
  (([0, 1, 2, 3, 4, 5, 6, 7] : List Nat).filter fun col => b.getLsbD (7 - col)).map fun col =>
    { x := Fin.ofNat 64 (x + col), y := Fin.ofNat 32 y }

/-- The pixels of a sprite whose rows are the bytes given (43_display.md R141). -/
def spritePixels : List Byte → Nat → Nat → List Pixel
  | [], _, _ => []
  | b :: bs, x, y => rowPixels b x y ++ spritePixels bs x (y + 1)

end Sys2Proof.Machine
end

