-- ==== Sys2Proof/Machine/Alu.lean ====
section
/-! DEFINITION. Register loads, the 8-bit ALU and the random byte (42_alu.md). -/

namespace Sys2Proof.Machine

/-- The result goes to `V[x]`, VF is not written as a side effect, `PC` moves on. -/
def putV (x : Reg) (b : Byte) (s : State) : Result := complete (s.setV x b).advance

/-- The flag goes to VF, then the result to `V[x]`, and `PC` moves on (R120). -/
def putFlagged (x : Reg) (flag : Bool) (b : Byte) (s : State) : Result := complete (s.setFlagThenV x flag b).advance

/-- `8xy0` LD Vx, Vy (R122). -/
def execLdVxVy (x y : Reg) (s : State) : Result := putV x (s.getV y) s

/-- `8xy1` OR Vx, Vy (R123). -/
def execOrVxVy (x y : Reg) (s : State) : Result := putV x (s.getV x ||| s.getV y) s

/-- `8xy2` AND Vx, Vy (R124). -/
def execAndVxVy (x y : Reg) (s : State) : Result := putV x (s.getV x &&& s.getV y) s

/-- `8xy3` XOR Vx, Vy (R125). -/
def execXorVxVy (x y : Reg) (s : State) : Result := putV x (s.getV x ^^^ s.getV y) s

/-- `8xy4` ADD Vx, Vy, VF = carry (R126). -/
def execAddVxVy (x y : Reg) (s : State) : Result :=
  putFlagged x (carry (s.getV x) (s.getV y)) (sum8 (s.getV x) (s.getV y)) s

/-- `8xy5` SUB Vx, Vy, VF = no borrow (R127). -/
def execSubVxVy (x y : Reg) (s : State) : Result :=
  putFlagged x (noBorrow (s.getV x) (s.getV y)) (diff8 (s.getV x) (s.getV y)) s

/-- `8xy6` SHR Vx, VF = the bit shifted out; `V[Y]` is not consulted (R128). -/
def execShrVx (x : Reg) (s : State) : Result := putFlagged x (outRight (s.getV x)) (half8 (s.getV x)) s

/-- `8xy7` SUBN Vx, Vy: `V[Y] - V[X]`, VF = no borrow (R129). -/
def execSubnVxVy (x y : Reg) (s : State) : Result :=
  putFlagged x (noBorrow (s.getV y) (s.getV x)) (diff8 (s.getV y) (s.getV x)) s

/-- `8xyE` SHL Vx, VF = the bit shifted out; `V[Y]` is not consulted (R130). -/
def execShlVx (x : Reg) (s : State) : Result := putFlagged x (outLeft (s.getV x)) (double8 (s.getV x)) s

/-- `6xkk` LD Vx, kk (R131). -/
def execLdVxKk (x : Reg) (kk : Byte) (s : State) : Result := putV x kk s

/-- `Cxkk` RND Vx, kk: the random byte masked (R132). The byte is a free value unless the driver has lined one up
(log 1). -/
def execRndVxKk (x : Reg) (kk : Byte) (s : State) : Result := putV x (s.rnd &&& kk) s.consumeRnd

/-- `7xkk` ADD Vx, kk: no flag (R133). -/
def execAddVxKk (x : Reg) (kk : Byte) (s : State) : Result := putV x (sum8 (s.getV x) kk) s

end Sys2Proof.Machine
end

