-- ==== Sys2Proof/Machine/Display.lean ====
section
/-! DEFINITION. The display instructions (43_display.md). -/

namespace Sys2Proof.Machine

/-- `00E0` CLS (R140). -/
def execCls (s : State) : Result := complete (s.setFb Screen.blank).advance

/-- The pixels that `Dxyn` toggles: the sprite's rows are the `n` bytes from `I` on, its left column is the value
`V[x]`, its top row the value `V[y]` (R141). -/
def drwPixels (x y : Reg) (n : Nibble) (s : State) : List Pixel :=
  spritePixels (Memory.readBytes s.params s.mem (indexAddr s) n.toNat) (s.getV x).toNat (s.getV y).toNat

/-- The screen after the sprite is drawn, and whether a lit pixel went out (R141, R143). -/
def drwBlit (x y : Reg) (n : Nibble) (s : State) : Screen × Bool := Screen.blit (drwPixels x y n s) s.fb

/-- `Dxyn` DRW Vx, Vy, n: the range is checked before anything is drawn; VF is the collision flag, written last and
always (R141, R142, R143). -/
def execDrwVxVyN (x y : Reg) (n : Nibble) (s : State) : Result :=
  withRange (indexAddr s) n.toNat s
    (complete ((s.setFb (drwBlit x y n s).1).setV regVF (flagByte (drwBlit x y n s).2)).advance)

end Sys2Proof.Machine
end

