-- ==== Sys2Proof/Machine/Flow.lean ====
section
/-! DEFINITION. Jump, call and return (41_jump_call.md). -/

namespace Sys2Proof.Machine

/-- `1nnn` JP nnn (R110). -/
def execJpNnn (nnn : Addr) (s : State) : Result := complete (s.setPc (addrOf nnn))

/-- `2nnn` CALL nnn: a stack fault when the stack is full; otherwise the address of the next instruction is pushed
and control goes to the target (R111). -/
def execCallNnn (nnn : Addr) (s : State) : Result :=
  if h : s.sp.val < 16 then complete ((s.push h s.nextPc).setPc (addrOf nnn))
  else raise .stack 16 s

/-- `00EE` RET: a stack fault when the stack is empty; otherwise control goes to the popped entry (R112). -/
def execRet (s : State) : Result :=
  if h : 0 < s.sp.val then complete (s.dropTop.setPc (s.top h))
  else raise .stack 0 s

/-- `Bnnn` JP V0, nnn (R113). -/
def execJpV0Nnn (nnn : Addr) (s : State) : Result := complete (s.setPc (jumpV0Target nnn s))

end Sys2Proof.Machine
end

