-- ==== Sys2Proof/Machine/IndexMem.lean ====
section
/-! DEFINITION. The index register and memory transfer (44_index_memory.md). -/

namespace Sys2Proof.Machine

/-- `Annn` LD I, nnn (R150). -/
def execLdINnn (nnn : Addr) (s : State) : Result := complete (s.setIndex (addrOf nnn)).advance

/-- `Fx1E` ADD I, Vx: an addressing fault when the sum does not fit in 16 bits; VF is not written (R151). -/
def execAddIVx (x : Reg) (s : State) : Result :=
  if 0xFFFF < indexSum x s then raise .address (indexSum x s) s
  else complete (s.setIndex (BitVec.ofNat 16 (indexSum x s))).advance

/-- `Fx29` LD F, Vx: the glyph's address, the register's value not reduced (R152). -/
def execLdFVx (x : Reg) (s : State) : Result :=
  complete (s.setIndex (BitVec.ofNat 16 (glyphAddr x s))).advance

/-- `Fx33` LD B, Vx: three decimal digits to memory (R153). -/
def execLdBVx (x : Reg) (s : State) : Result :=
  withRange (indexAddr s) 3 s (complete (s.storeBytes (indexAddr s) (bcdDigits (s.getV x))).advance)

/-- `Fx55` LD [I], Vx: registers V0 to VX to memory (R154). -/
def execLdMemVx (x : Reg) (s : State) : Result :=
  withRange (indexAddr s) (x.val + 1) s
    (complete (s.storeBytes (indexAddr s) ((regsUpTo x).map s.getV)).advance)

/-- What `Fx65` loads: each register of V0 to VX with its byte (R155). -/
def loadedRegs (x : Reg) (s : State) : List (Reg × Byte) :=
  (regsUpTo x).map fun k => (k, Memory.read s.params s.mem (indexAddr s + k.val))

/-- `Fx65` LD Vx, [I]: registers V0 to VX from memory (R155). -/
def execLdVxMem (x : Reg) (s : State) : Result :=
  withRange (indexAddr s) (x.val + 1) s (complete (s.setMany (loadedRegs x s)).advance)

end Sys2Proof.Machine
end

