-- ==== Sys2Proof/Machine/Skip.lean ====
section
/-! DEFINITION. The skip instructions (40_skip.md). -/

namespace Sys2Proof.Machine

/-- A skip: `PC` ends at `pc0 + 4` when the condition holds, at `pc0 + 2` when not; nothing else (R100). -/
def skipIf (cond : Bool) (s : State) : Result := complete (if cond then s.skip else s.advance)

/-- The key whose number is in `V[x]`; a number above 15 is an addressing fault (R105, R106). -/
def withKey (x : Reg) (s : State) (go : Bool → Result) : Result :=
  if h : (s.getV x).toNat < 16 then go (s.key ⟨(s.getV x).toNat, h⟩)
  else raise .address (s.getV x).toNat s

/-- `3xkk` SE Vx, kk (R101). -/
def execSeVxKk (x : Reg) (kk : Byte) (s : State) : Result := skipIf (s.getV x == kk) s

/-- `4xkk` SNE Vx, kk (R102). -/
def execSneVxKk (x : Reg) (kk : Byte) (s : State) : Result := skipIf (s.getV x != kk) s

/-- `5xy0` SE Vx, Vy (R103). -/
def execSeVxVy (x y : Reg) (s : State) : Result := skipIf (s.getV x == s.getV y) s

/-- `9xy0` SNE Vx, Vy (R104). -/
def execSneVxVy (x y : Reg) (s : State) : Result := skipIf (s.getV x != s.getV y) s

/-- `Ex9E` SKP Vx (R105). -/
def execSkpVx (x : Reg) (s : State) : Result := withKey x s fun held => skipIf held s

/-- `ExA1` SKNP Vx (R106). -/
def execSknpVx (x : Reg) (s : State) : Result := withKey x s fun held => skipIf (!held) s

end Sys2Proof.Machine
end

