-- ==== Sys2Proof/Machine/TimerKey.lean ====
section
/-! DEFINITION. Timer access and the blocking key wait (45_timer_key.md). -/

namespace Sys2Proof.Machine

/-- `Fx07` LD Vx, DT: the value before this cycle's tick (R160). -/
def execLdVxDt (x : Reg) (s : State) : Result := complete (s.setV x s.dt).advance

/-- `Fx15` LD DT, Vx: this cycle's tick follows the write (R161). -/
def execLdDtVx (x : Reg) (s : State) : Result := complete (s.setDt (s.getV x)).advance

/-- `Fx18` LD ST, Vx: this cycle's tick follows the write (R162). -/
def execLdStVx (x : Reg) (s : State) : Result := complete (s.setSt (s.getV x)).advance

/-- `Fx0A` LD Vx, K: with no key held a waiting cycle, which changes nothing; otherwise the least key held is stored
(R163). -/
def execLdVxK (x : Reg) (s : State) : Result :=
  match s.firstKey with
  | none => keyWait s
  | some k => complete (s.setV x (BitVec.ofNat 8 k.val)).advance

end Sys2Proof.Machine
end

