-- ==== Sys2Proof/Machine/Unassigned.lean ====
section
/-! DEFINITION. The unassigned words, all no-ops (46_unassigned.md): nothing but `PC` and the timers (R170). -/

namespace Sys2Proof.Machine

/-- `0nnn` SYS nnn (R171). -/
def execSysNnn (s : State) : Result := complete s.advance

/-- `8xyN` unassigned (R172). -/
def execNop8 (s : State) : Result := complete s.advance

/-- `ExKK` unassigned: `V[X]` is not used as a key number (R173). -/
def execNopE (s : State) : Result := complete s.advance

/-- `FxKK` unassigned (R174). -/
def execNopF (s : State) : Result := complete s.advance

end Sys2Proof.Machine
end

