-- ==== Sys2Proof/Machine/Step.lean ====
section
/-! DEFINITION. One step of the machine: one `cycle()` (30_encoding.md R82), its random byte left to `State.rnd`. -/

namespace Sys2Proof.Machine

/-- One cycle: while a fault is latched nothing changes (60_exceptions.md R185); otherwise fetch, which can fault
(30_encoding.md R74), and then the instruction of the word (R75), whose meaning ends the cycle. -/
def step (s : State) : Host.Outcome State Fault Refusal :=
  match s.fault with
  | some _ => .next s
  | none =>
    match s.fetch with
    | .error bad => raise .address bad s
    | .ok w => exec (decode w) s

/-- The state with an opcode-table word placed where the next fetch reads it, most significant byte first
(20_memory.md R54); it stands for the load of a program (log 8). -/
def State.withFetchWord (s : State) (nbits w : Nat) : State :=
  s.storeBytes s.pc.toNat (bytesOfWord (tableWord nbits w))

end Sys2Proof.Machine
end

