-- ==== Sys2Proof/Machine/Driver.lean ====
section
/-! DEFINITION. The host's side of the block: the status of a cycle, `cycle(rnd)`, `load(bytes, len)`, the keypad
latches, the framebuffer read-out and `reset()` (00_scope.md R5, 70_reset_and_hazards.md). -/

namespace Sys2Proof.Machine

/-- What `cycle()` returns (30_encoding.md R82). It is an output, not state (10_state.md R33). -/
inductive Status where
  /-- The cycle completed. -/
  | done
  /-- `Fx0A` with no key held. -/
  | waiting
  /-- A fault, in this cycle or latched before it. -/
  | faulted (cause : Cause)
  deriving DecidableEq, Repr

/-- What `load()` returns (70_reset_and_hazards.md R203, R204). -/
inductive LoadStatus where
  /-- `LoadOk`. -/
  | loadOk
  /-- `LoadFailed(ROM_TOO_LARGE)`. -/
  | romTooLarge
  deriving DecidableEq, Repr

/-- The code of a cause (60_exceptions.md R180). -/
def causeCode : Cause → Nat
  | .address => 1
  | .stack => 2

/-- Is the instruction the key wait? -/
def isKeyWait : Instr → Bool
  | .ldVxK _ => true
  | _ => false

namespace State

/-- A key wait is pending: the next instruction is `Fx0A` and no key is held. Recomputed from `MEM`, `PC` and `KEY`,
never stored (10_state.md R33). -/
def awaitingKey (s : State) : Bool :=
  match s.fetch with
  | .ok w => isKeyWait (decode w) && s.firstKey.isNone
  | .error _ => false

/-- The status of the cycle that began in `s` and ended in `t` (30_encoding.md R82). -/
def cycleStatus (s t : State) : Status :=
  match t.fault with
  | some r => .faulted r.cause
  | none => if s.awaitingKey then .waiting else .done

/-- The driver hands this cycle its random byte. -/
def giveRnd (s : State) (rnd : Byte) : State := { s with rndIn := [rnd] }

/-- After the cycle, the bytes the driver had lined up before it. -/
def restoreRnd (t s : State) : State := { t with rndIn := s.rndIn }

end State

/-- `cycle(rnd)`: one step with the byte given, and its status (30_encoding.md R82). -/
def cycle (rnd : Byte) (s : State) : Host.Outcome (State × Status) Fault Refusal :=
  match step (s.giveRnd rnd) with
  | .next t => .next (t.restoreRnd s, s.cycleStatus t)
  | .fault r => .fault r
  | .refused r => .refused r

namespace State

/-- `load(bytes, len)` with `len` the number of bytes: from 0x200 on, nothing else; more than 3584 bytes are refused
before the first is written (70_reset_and_hazards.md R203, R204). -/
def load (bytes : List Byte) (s : State) : State × LoadStatus :=
  if Config.romMax < bytes.length then (s, .romTooLarge)
  else (s.storeBytes Config.progBase bytes, .loadOk)

/-- `reset()`, from any state: the block's parameters stay, everything else is as 10_state.md R35 says
(70_reset_and_hazards.md R200). -/
def afterReset (s : State) : State := State.resetWith s.params

/-- The input collaborator sets the sixteen latches (10_state.md R28). -/
def setKeys (keys : Vector Bool 16) (s : State) : State := { s with keys := keys }

/-- The driver lines up random bytes for the coming draws ("inject a substitute deterministic source", 42_alu.md R132;
log 1). -/
def lineUpRnd (bytes : List Byte) (s : State) : State := { s with rndIn := bytes }

/-- The presentation layer reads the cell in column `x`, row `y`, `FB[y*64 + x]`, in its 32-bit form (10_state.md R29). -/
def fbCell (s : State) (p : Pixel) : BitVec 32 := if Screen.lit s.fb p then Config.pixelOn else Config.pixelOff

end State

end Sys2Proof.Machine
end

