-- ==== Sys2Proof/Safety.lean ====
section
/-! DEFINITION. The terms that claims use: what a frame leaves alone, how a completed cycle ends, the invariant of the
state (10_state.md R37), the states a host can bring about (70_reset_and_hazards.md R206), and a safe state. -/

namespace Sys2Proof.Machine

/-! ### Frames -/

/-- The parts of the state a frame speaks of, one by one. `PC` and the two timers are spoken of apart. -/
inductive StatePart where
  | v (x : Reg)
  | index
  | stack
  | sp
  | fb
  | mem
  | rnd
  deriving DecidableEq, Repr

/-- From `s` to `t` no part but those listed changes; the keypad latches and the fault latch never do. Memory is
compared byte by byte. The parameters never change. -/
def OnlyChanges (parts : List StatePart) (s t : State) : Prop :=
  (∀ x : Reg, .v x ∉ parts → t.getV x = s.getV x) ∧
  (.index ∉ parts → t.index = s.index) ∧
  (.stack ∉ parts → t.stack = s.stack) ∧
  (.sp ∉ parts → t.sp = s.sp) ∧
  (.fb ∉ parts → t.fb = s.fb) ∧
  (.mem ∉ parts → ∀ a, Memory.read t.params t.mem a = Memory.read s.params s.mem a) ∧
  (.rnd ∉ parts → t.rndIn = s.rndIn ∧ t.draws = s.draws) ∧
  t.keys = s.keys ∧ t.fault = s.fault ∧ t.params = s.params

/-- A timer that held `a` before a tick holds `b` after it (60_exceptions.md R192). -/
def TickedFrom (a b : Byte) : Prop := b.toNat = a.toNat - 1

/-- The cycle from `s` to `t` completed with both timers ticked once from where they stood, `PC` at `target`, and no
part but those listed changed. -/
def CompletesAt (target : Word) (parts : List StatePart) (s t : State) : Prop :=
  t.pc = target ∧ TickedFrom s.dt t.dt ∧ TickedFrom s.st t.st ∧ OnlyChanges parts s t

/-- Every byte outside `from .. from+n-1` reads as before. -/
def MemorySameOutside (a n : Nat) (s t : State) : Prop :=
  ∀ b, b < a ∨ a + n ≤ b → Memory.read t.params t.mem b = Memory.read s.params s.mem b

/-- Pixel `p` is under a 1 bit of the sprite that `Dxyn` draws: row `row` of the sprite is the byte at `I + row`, the most
significant bit is the leftmost pixel, and both coordinates wrap (43_display.md R141, R142). -/
def SpriteCovers (x y : Reg) (n : Nibble) (s : State) (p : Pixel) : Prop :=
  ∃ row col, row < n.toNat ∧ col < 8 ∧ (Memory.read s.params s.mem (s.index.toNat + row)).getLsbD (7 - col) = true ∧
    p.x.val = ((s.getV x).toNat + col) % 64 ∧ p.y.val = ((s.getV y).toNat + row) % 32

/-- The state in which a cycle that began in `s` ends when it faults: the record is latched, nothing else changes
(60_exceptions.md R183, R186). -/
def faultedState (cause : Cause) (info : Nat) (s : State) : State :=
  { s with fault := some { cause := cause, pc := s.pc, info := info } }

/-- The tables of the two faults (60_exceptions.md R181, R182): what an instruction faults with from a state, if it does.
No other instruction can fault. -/
def faultOf (i : Instr) (s : State) : Option (Cause × Nat) :=
  match i with
  | .drwVxVyN _ _ n =>
    if 1 ≤ n.toNat ∧ 4095 < s.index.toNat + n.toNat - 1 then some (.address, max s.index.toNat 4096) else none
  | .ldBVx _ => if 4095 < s.index.toNat + 2 then some (.address, max s.index.toNat 4096) else none
  | .ldMemVx x => if 4095 < s.index.toNat + x.val then some (.address, max s.index.toNat 4096) else none
  | .ldVxMem x => if 4095 < s.index.toNat + x.val then some (.address, max s.index.toNat 4096) else none
  | .addIVx x =>
    if 65535 < s.index.toNat + (s.getV x).toNat then some (.address, s.index.toNat + (s.getV x).toNat) else none
  | .skpVx x => if 15 < (s.getV x).toNat then some (.address, (s.getV x).toNat) else none
  | .sknpVx x => if 15 < (s.getV x).toNat then some (.address, (s.getV x).toNat) else none
  | .callNnn _ => if s.sp.val = 16 then some (.stack, 16) else none
  | .ret _ => if s.sp.val = 0 then some (.stack, 0) else none
  | _ => none

/-! ### The opcode map -/

/-- A row of the opcode map (30_encoding.md R83). -/
structure OpcodeRow where
  mask : Word
  mtch : Word
  mnemonic : String
  deriving DecidableEq, Repr

/-- Rows 1 to 34 of the opcode map (30_encoding.md R83): the instructions with a handler, as spec/opcode_table.json names
them. -/
def assignedRows : List OpcodeRow :=
  [⟨0xF00F, 0x0000, "CLS"⟩, ⟨0xF00F, 0x000E, "RET"⟩, ⟨0xF000, 0x1000, "JP_nnn"⟩, ⟨0xF000, 0x2000, "CALL_nnn"⟩] ++
  [⟨0xF000, 0x3000, "SE_Vx__kk"⟩, ⟨0xF000, 0x4000, "SNE_Vx__kk"⟩, ⟨0xF000, 0x5000, "SE_Vx__Vy"⟩] ++
  [⟨0xF000, 0x6000, "LD_Vx__kk"⟩, ⟨0xF000, 0x7000, "ADD_Vx__kk"⟩, ⟨0xF00F, 0x8000, "LD_Vx__Vy"⟩] ++
  [⟨0xF00F, 0x8001, "OR_Vx__Vy"⟩, ⟨0xF00F, 0x8002, "AND_Vx__Vy"⟩, ⟨0xF00F, 0x8003, "XOR_Vx__Vy"⟩] ++
  [⟨0xF00F, 0x8004, "ADD_Vx__Vy"⟩, ⟨0xF00F, 0x8005, "SUB_Vx__Vy"⟩, ⟨0xF00F, 0x8006, "SHR_Vx"⟩] ++
  [⟨0xF00F, 0x8007, "SUBN_Vx__Vy"⟩, ⟨0xF00F, 0x800E, "SHL_Vx"⟩, ⟨0xF000, 0x9000, "SNE_Vx__Vy"⟩] ++
  [⟨0xF000, 0xA000, "LD_I__nnn"⟩, ⟨0xF000, 0xB000, "JP_V0__nnn"⟩, ⟨0xF000, 0xC000, "RND_Vx__kk"⟩] ++
  [⟨0xF000, 0xD000, "DRW_Vx__Vy__n"⟩, ⟨0xF0FF, 0xE09E, "SKP_Vx"⟩, ⟨0xF0FF, 0xE0A1, "SKNP_Vx"⟩] ++
  [⟨0xF0FF, 0xF007, "LD_Vx__DT"⟩, ⟨0xF0FF, 0xF00A, "LD_Vx__K"⟩, ⟨0xF0FF, 0xF015, "LD_DT__Vx"⟩] ++
  [⟨0xF0FF, 0xF018, "LD_ST__Vx"⟩, ⟨0xF0FF, 0xF01E, "ADD_I__Vx"⟩, ⟨0xF0FF, 0xF029, "LD_F__Vx"⟩] ++
  [⟨0xF0FF, 0xF033, "LD_B__Vx"⟩, ⟨0xF0FF, 0xF055, "LD__I___Vx"⟩, ⟨0xF0FF, 0xF065, "LD_Vx___I"⟩]

/-- Rows 35 to 38: the unassigned spaces, each what the earlier rows of its family leave. -/
def unassignedRows : List OpcodeRow :=
  [⟨0xF000, 0x0000, "SYS_nnn"⟩, ⟨0xF000, 0x8000, "NOP8"⟩, ⟨0xF000, 0xE000, "NOPE"⟩, ⟨0xF000, 0xF000, "NOPF"⟩]

/-- The word selects the row. -/
def OpcodeRow.selectedBy (r : OpcodeRow) (w : Word) : Bool := w &&& r.mask == r.mtch

/-- The row's name of each instruction. -/
def mnemonicOf : Instr → String
  | .cls _ => "CLS"
  | .ret _ => "RET"
  | .jpNnn _ => "JP_nnn"
  | .callNnn _ => "CALL_nnn"
  | .seVxKk _ _ => "SE_Vx__kk"
  | .sneVxKk _ _ => "SNE_Vx__kk"
  | .seVxVy _ _ _ => "SE_Vx__Vy"
  | .ldVxKk _ _ => "LD_Vx__kk"
  | .addVxKk _ _ => "ADD_Vx__kk"
  | .ldVxVy _ _ => "LD_Vx__Vy"
  | .orVxVy _ _ => "OR_Vx__Vy"
  | .andVxVy _ _ => "AND_Vx__Vy"
  | .xorVxVy _ _ => "XOR_Vx__Vy"
  | .addVxVy _ _ => "ADD_Vx__Vy"
  | .subVxVy _ _ => "SUB_Vx__Vy"
  | .shrVx _ _ => "SHR_Vx"
  | .subnVxVy _ _ => "SUBN_Vx__Vy"
  | .shlVx _ _ => "SHL_Vx"
  | .sneVxVy _ _ _ => "SNE_Vx__Vy"
  | .ldINnn _ => "LD_I__nnn"
  | .jpV0Nnn _ => "JP_V0__nnn"
  | .rndVxKk _ _ => "RND_Vx__kk"
  | .drwVxVyN _ _ _ => "DRW_Vx__Vy__n"
  | .skpVx _ => "SKP_Vx"
  | .sknpVx _ => "SKNP_Vx"
  | .ldVxDt _ => "LD_Vx__DT"
  | .ldVxK _ => "LD_Vx__K"
  | .ldDtVx _ => "LD_DT__Vx"
  | .ldStVx _ => "LD_ST__Vx"
  | .addIVx _ => "ADD_I__Vx"
  | .ldFVx _ => "LD_F__Vx"
  | .ldBVx _ => "LD_B__Vx"
  | .ldMemVx _ => "LD__I___Vx"
  | .ldVxMem _ => "LD_Vx___I"
  | .sysNnn _ => "SYS_nnn"
  | .nop8 _ _ _ => "NOP8"
  | .nopE _ _ => "NOPE"
  | .nopF _ _ => "NOPF"

/-! ### The invariant -/

/-- A record that a fault of this machine can leave: a stack fault records 0 or 16, an addressing fault a value that is
out of some range and needs at most 17 bits (60_exceptions.md R181, R182, R183). -/
def FaultRecord.Legal (r : FaultRecord) : Prop :=
  match r.cause with
  | .stack => r.info = 0 ∨ r.info = 16
  | .address => 16 ≤ r.info ∧ r.info < 2 ^ 17

/-- The invariant of the state: memory is canonical, `PC` is at most 0x10FE, a stack entry at most 0x1000
(10_state.md R37), and a latched record is legal and stands at the `PC` (60_exceptions.md R186). The other bounds of
R37 are in the types. -/
structure StateInv (s : State) : Prop where
  /-- Memory is in canonical form. -/
  mem : Memory.wf s.params s.mem = true
  /-- `PC` is at most 0x10FE. -/
  pc : s.pc.toNat ≤ 0x10FE
  /-- Every stack entry is at most 0x1000. -/
  stack : ∀ k : Fin 16, s.stack[k.val].toNat ≤ 0x1000
  /-- A latched record is one a fault can leave, at the instruction that faulted. -/
  fault : ∀ r, s.fault = some r → r.Legal ∧ r.pc = s.pc

/-! ### What the host can bring about -/

/-- The states reachable by the operations and channels of a block of any parameters, after the first `reset()`
(70_reset_and_hazards.md R205, R206; logs 1, 2 and 9). -/
inductive Reachable : State → Prop where
  /-- The first `reset()` of a block with the parameters given. -/
  | first (params : Params) : Reachable (State.resetWith params)
  /-- `reset()` again. -/
  | reset {s : State} (h : Reachable s) : Reachable s.afterReset
  /-- `cycle()`, its random byte left free. -/
  | step {s t : State} (h : Reachable s) (ht : Sys2Proof.Machine.step s = .next t) : Reachable t
  /-- `cycle(rnd)`. -/
  | cycle {s t : State} {rnd : Byte} {status : Status} (h : Reachable s)
      (ht : Sys2Proof.Machine.cycle rnd s = .next (t, status)) : Reachable t
  /-- `load()`. -/
  | load {s : State} (h : Reachable s) (bytes : List Byte) : Reachable (s.load bytes).1
  /-- The input collaborator writes the latches. -/
  | keys {s : State} (h : Reachable s) (keys : Vector Bool 16) : Reachable (s.setKeys keys)
  /-- The driver lines up random bytes (the model's own; log 1). -/
  | lineUp {s : State} (h : Reachable s) (bytes : List Byte) : Reachable (s.lineUpRnd bytes)

/-- A safe state: no fault is latched. -/
def Safe (s : State) : Prop := s.fault = none

/-- A safe run of `k` steps: every state along it, the last included, is safe. -/
def SafeFor : Nat → State → Prop
  | 0, s => Safe s
  | k + 1, s => Safe s ∧ ∀ t, Sys2Proof.Machine.step s = .next t → SafeFor k t

end Sys2Proof.Machine
end

