-- ==== Sys2Proof/Certificates/Slice0/Obligations.lean ====
section
/-! DEFINITION. The statements about the model, each a Prop under `Obligations`. A docstring names the rules of spec/ that the
statement formalises; where it rests on a decision of the spec (92_eei_decisions.md D<n>), on its general knowledge, or on a
choice of the model (log n), the docstring says so. -/

open Sys2Proof Sys2Proof.Machine

/-! ### Words and instructions -/

/-- The fields of the instruction word fetched as two bytes (30_encoding.md R71): each field's bits as a number, `KK` =
`Y ++ N`, `NNN` = `X ++ Y ++ N`; `OP` and `X` are the halves of the first byte, `KK` is the second. -/
def Obligations.FieldsOfInstructionWord : Prop :=
  ∀ (hi lo : Byte) (w : Word), w = wordOfBytes hi lo →
    (Bits.op w).toNat = w.toNat / 4096 ∧ (Bits.x w).val = w.toNat / 256 % 16 ∧ (Bits.y w).val = w.toNat / 16 % 16 ∧
    (Bits.n w).toNat = w.toNat % 16 ∧ (Bits.kk w).toNat = w.toNat % 256 ∧ (Bits.nnn w).toNat = w.toNat % 4096 ∧
    Bits.kk w = regBits (Bits.y w) ++ Bits.n w ∧
    Bits.nnn w = regBits (Bits.x w) ++ regBits (Bits.y w) ++ Bits.n w ∧
    (Bits.op w).toNat = hi.toNat / 16 ∧ (Bits.x w).val = hi.toNat % 16 ∧ Bits.kk w = lo

/-- Decoding the word of a well-formed instruction gives it back, with every field, the ignored ones included. -/
def Obligations.DecodeInvertsEncode : Prop :=
  ∀ i : Instr, i.wellFormed = true →
    decode (encode i) = i ∧ decodeBytes (encodeBytes i) = .ok (i, [])

/-- Every word decodes to a well-formed instruction whose word it is: the decoder is total and no two words stand for one
instruction term. -/
def Obligations.EncodeInvertsDecode : Prop :=
  ∀ w : Word, (decode w).wellFormed = true ∧ encode (decode w) = w

/-- The decoder takes the first row of the opcode map that the word selects, for every word (30_encoding.md R83; the encodings
marked GK there are the spec's general knowledge). -/
def Obligations.DecoderTakesFirstMatchingRow : Prop :=
  ∀ w : Word, ((assignedRows ++ unassignedRows).find? fun r => r.selectedBy w).map OpcodeRow.mnemonic =
    some (mnemonicOf (decode w))

/-- No word selects two of the rows 1 to 34 (30_encoding.md R83: their masks are disjoint). -/
def Obligations.AssignedRowsAreDisjoint : Prop :=
  assignedRows.Pairwise fun r q => ∀ w : Word, ¬ (r.selectedBy w = true ∧ q.selectedBy w = true)

/-- Bits that the dispatch ignores take part in nothing: two words of family 0 with the same low nibble, of family 5 or 9 with
the same `X` and `Y`, of `8xy6` or of `8xyE` with the same `X`, or unassigned ones of family 8, do the same in every state.
Rests on R76, on R72 (derived by the spec) and on the spec's decision D34 for families 5 and 9. -/
def Obligations.IgnoredBitsHaveNoEffect : Prop :=
  ∀ (w w' : Word) (s : State), Bits.op w = Bits.op w' →
    (Bits.op w = 0x0 → Bits.n w = Bits.n w' → exec (decode w) s = exec (decode w') s) ∧
    (Bits.op w = 0x5 ∨ Bits.op w = 0x9 → Bits.x w = Bits.x w' → Bits.y w = Bits.y w' →
      exec (decode w) s = exec (decode w') s) ∧
    (Bits.op w = 0x8 → Bits.n w = 0x6 ∨ Bits.n w = 0xE → Bits.n w = Bits.n w' → Bits.x w = Bits.x w' →
      exec (decode w) s = exec (decode w') s) ∧
    (Bits.op w = 0x8 → Bits.n w ∈ unassigned8 → Bits.n w' ∈ unassigned8 → exec (decode w) s = exec (decode w') s)

/-- A word written out from the opcode map (R83) for each of its 38 rows decodes to the instruction it stands for; a word of
family 5, of family 9, of `8xy6`, of `8xyE` and of the no-ops among them has ignored bits set. The encodings that R83 marks
GK are the spec's general knowledge, and that `512F` and `9125` are aliases is its decision D34 (log 12). -/
def Obligations.WrittenWordsDecode : Prop :=
  (decode 0x00E0 = .cls 0x0E ∧ decode 0x00EE = .ret 0x0E ∧ decode 0x0123 = .sysNnn 0x123) ∧
  (decode 0x1234 = .jpNnn 0x234 ∧ decode 0x2345 = .callNnn 0x345 ∧ decode 0xB456 = .jpV0Nnn 0x456) ∧
  (decode 0x332A = .seVxKk 3 0x2A ∧ decode 0x442B = .sneVxKk 4 0x2B) ∧
  (decode 0x512F = .seVxVy 1 2 0xF ∧ decode 0x9125 = .sneVxVy 1 2 0x5) ∧
  (decode 0x6A7F = .ldVxKk 10 0x7F ∧ decode 0x7105 = .addVxKk 1 0x05 ∧ decode 0xC20F = .rndVxKk 2 0x0F) ∧
  (decode 0x8120 = .ldVxVy 1 2 ∧ decode 0x8121 = .orVxVy 1 2 ∧ decode 0x8122 = .andVxVy 1 2) ∧
  (decode 0x8123 = .xorVxVy 1 2 ∧ decode 0x8124 = .addVxVy 1 2 ∧ decode 0x8125 = .subVxVy 1 2) ∧
  (decode 0x8126 = .shrVx 1 2 ∧ decode 0x8127 = .subnVxVy 1 2 ∧ decode 0x812E = .shlVx 1 2) ∧
  (decode 0x812F = .nop8 1 2 0xF ∧ decode 0xA2F0 = .ldINnn 0x2F0 ∧ decode 0xD015 = .drwVxVyN 0 1 5) ∧
  (decode 0xE49E = .skpVx 4 ∧ decode 0xE4A1 = .sknpVx 4 ∧ decode 0xE19F = .nopE 1 0x9F) ∧
  (decode 0xF307 = .ldVxDt 3 ∧ decode 0xF50A = .ldVxK 5 ∧ decode 0xF215 = .ldDtVx 2 ∧ decode 0xF218 = .ldStVx 2) ∧
  (decode 0xF21E = .addIVx 2 ∧ decode 0xF329 = .ldFVx 3 ∧ decode 0xF433 = .ldBVx 4) ∧
  (decode 0xF255 = .ldMemVx 2 ∧ decode 0xF265 = .ldVxMem 2 ∧ decode 0xF175 = .nopF 1 0x75)

/-! ### The cycle -/

/-- When no fault is latched and the two bytes at `PC` are in memory and decode to an instruction, a step is that instruction's
meaning on the state itself; what moves `PC` past the instruction and ticks the timers is in the meaning (log 6). -/
def Obligations.StepRunsDecodedInstruction : Prop :=
  ∀ (s : State) (i : Instr), s.fault = none → s.pc.toNat ≤ 0xFFE →
    decodeBytes [Memory.read s.params s.mem s.pc.toNat, Memory.read s.params s.mem (s.pc.toNat + 1)] = .ok (i, []) →
    step s = exec i s

/-- Fetch is big-endian at any `pc0` whose two bytes exist, odd or even, and otherwise faults with nothing changed: at `pc0`
itself above 4095, at 4096 for `pc0` = 4095 (30_encoding.md R74; the record is the spec's decision D8). -/
def Obligations.FetchIsBigEndianOrFaults : Prop :=
  ∀ s : State, s.fault = none →
    (s.pc.toNat ≤ 4094 → ∃ w : Word,
      w.toNat = (Memory.read s.params s.mem s.pc.toNat).toNat * 256 + (Memory.read s.params s.mem (s.pc.toNat + 1)).toNat ∧
      step s = exec (decode w) s) ∧
    (s.pc.toNat = 4095 → step s = .next (faultedState .address 4096 s)) ∧
    (4095 < s.pc.toNat → step s = .next (faultedState .address s.pc.toNat s))

/-- A step always answers a next state: no word is refused (R81), and a cycle that faults, or that follows a fault, answers one too.
That a fault is taken as a next state with the latch set is the model's choice (log 4, DEDUCED), read from the spec's decisions
D9 and D10. -/
def Obligations.StepAlwaysAnswersNext : Prop :=
  ∀ s : State, ∃ t, step s = .next t

/-- `cycle(rnd)` answers a state and a status: `Faulted` of the cause just when a fault is latched at its end, `Waiting` only with
no change at all, `Done` only with no fault and no pending wait; a cycle with a fault latched before it changes nothing; and a
faulting cycle changes nothing but the latch. Rests on R82 and the spec's decisions D9 and D21. -/
def Obligations.CycleReturnsStatus : Prop :=
  ∀ (rnd : Byte) (s : State), ∃ t status, cycle rnd s = .next (t, status) ∧
    (∀ c, status = .faulted c ↔ ∃ r, t.fault = some r ∧ r.cause = c) ∧
    (status = .waiting ↔ s.fault = none ∧ s.awaitingKey = true) ∧
    (status = .waiting → t = s) ∧
    (s.fault ≠ none → t = s) ∧
    (t.fault ≠ none → t = { s with fault := t.fault })

/-- Once a fault is latched no number of steps changes anything, and neither `load()` nor the keypad clears it; only `reset()`
does. Rests on R185, R187 and the spec's decisions D10 and, for `reset()`, D27. -/
def Obligations.LatchedFaultHolds : Prop :=
  ∀ s : State, s.fault ≠ none →
    (∀ k, Host.Core.run Sys2Proof.core k s = .next s) ∧
    (∀ bytes, (s.load bytes).1.fault = s.fault) ∧ (∀ keys, (s.setKeys keys).fault = s.fault) ∧
    s.afterReset.fault = none

/-- A key wait holds: with `Fx0A` at `PC` and no key held, any number of steps changes nothing, timers included; when the host
sets a latch, the next step stores the least key held and goes on. Rests on R163, R164 and the spec's decisions D21, D22. -/
def Obligations.KeyWaitHoldsUntilKey : Prop :=
  ∀ (x : Reg) (s : State), s.fault = none → s.fetch = .ok (0xF00A#16 + BitVec.ofNat 16 (0x100 * x.val)) →
    (∀ k, s.key k = false) →
    (∀ k, Host.Core.run Sys2Proof.core k s = .next s) ∧
    (∀ (keys : Vector Bool 16) (k : Fin 16), keys[k.val] = true → (∀ j : Fin 16, j < k → keys[j.val] = false) →
      ∃ t, step (s.setKeys keys) = .next t ∧ (t.getV x).toNat = k.val ∧
        CompletesAt (s.pc + 2#16) [.v x] (s.setKeys keys) t)

/-- A fault is precise: a step that latches one changes nothing else, and the record holds the address of the faulting
instruction. Rests on R183, R186 and the spec's decisions D8, D9. -/
def Obligations.FaultChangesOnlyTheLatch : Prop :=
  ∀ (s t : State), s.fault = none → step s = .next t → t.fault ≠ none →
    ∃ cause info, t = faultedState cause info s

/-- An instruction latches a fault exactly when the tables of R181 and R182 say so, with the cause and the value they record, and
no instruction outside them ever does (R190). Rests also on the spec's decisions D7 (the range fault), D8 (the record), D9 and
D10 (the latch), D11, D12, D13 and D28 (the lowest address is the one reported) (log 12), and on log 4 (DEDUCED): the fault is
a next state. -/
def Obligations.FaultsAreExactlyTheListed : Prop :=
  ∀ (s t : State), s.fault = none → s.pc.toNat ≤ 4094 → step s = .next t →
    t.fault = (faultOf (decode (wordOfBytes (Memory.read s.params s.mem s.pc.toNat)
      (Memory.read s.params s.mem (s.pc.toNat + 1)))) s).map
      fun p => { cause := p.1, pc := s.pc, info := p.2 }

/-- The tick (60_exceptions.md R192): in a completed cycle each timer, after the write of `Fx15` or `Fx18` if that is the
instruction, goes down by one while greater than zero; in a waiting cycle it stands (the spec's decision D21, log 12), in a
faulting one (its decision D9) and after a fault (its decision D10) too. -/
def Obligations.TimersTickOncePerCompletedCycle : Prop :=
  ∀ (s t : State), step s = .next t →
    (t.fault ≠ none ∨ s.awaitingKey = true → t.dt = s.dt ∧ t.st = s.st) ∧
    (∀ w, s.fetch = .ok w → t.fault = none → s.awaitingKey = false →
      t.dt.toNat = (match decode w with | .ldDtVx x => (s.getV x).toNat | _ => s.dt.toNat) - 1 ∧
      t.st.toNat = (match decode w with | .ldStVx x => (s.getV x).toNat | _ => s.st.toNat) - 1)

/-- How each class of instruction leaves `PC` at the end of a cycle: the table of R23. A skip whose condition holds ends at
`pc0 + 4`, one whose condition does not at `pc0 + 2`; the conditions (40_skip.md) and the targets of `1nnn`, `2nnn` and `Bnnn`
are the spec's general knowledge, the width of `Bnnn` its decision D24, the waiting and the faulting cycle its decisions D21
and D9 (log 12). -/
def Obligations.ProgramCounterAfterEachClass : Prop :=
  ∀ (s t : State) (w : Word), s.fault = none → s.fetch = .ok w → step s = .next t →
    (t.fault ≠ none ∨ s.awaitingKey = true → t.pc = s.pc) ∧
    (t.fault = none → s.awaitingKey = false →
      match decode w with
      | .jpNnn nnn => t.pc.toNat = nnn.toNat
      | .callNnn nnn => t.pc.toNat = nnn.toNat ∧ ∃ k : Fin 16, k.val = s.sp.val ∧ t.stack[k.val].toNat = s.pc.toNat + 2
      | .jpV0Nnn nnn => t.pc.toNat = nnn.toNat + (s.getV 0).toNat
      | .ret _ => ∃ k : Fin 16, k.val + 1 = s.sp.val ∧ t.pc = s.stack[k.val]
      | .seVxKk x kk => t.pc.toNat = s.pc.toNat + if (s.getV x).toNat = kk.toNat then 4 else 2
      | .sneVxKk x kk => t.pc.toNat = s.pc.toNat + if (s.getV x).toNat = kk.toNat then 2 else 4
      | .seVxVy x y _ => t.pc.toNat = s.pc.toNat + if (s.getV x).toNat = (s.getV y).toNat then 4 else 2
      | .sneVxVy x y _ => t.pc.toNat = s.pc.toNat + if (s.getV x).toNat = (s.getV y).toNat then 2 else 4
      | .skpVx x => ∃ k : Fin 16, (s.getV x).toNat = k.val ∧ t.pc.toNat = s.pc.toNat + if s.keys[k.val] = true then 4 else 2
      | .sknpVx x => ∃ k : Fin 16, (s.getV x).toNat = k.val ∧ t.pc.toNat = s.pc.toNat + if s.keys[k.val] = true then 2 else 4
      | _ => t.pc.toNat = s.pc.toNat + 2)

/-- Who writes what (R34), part by part. In every state: a latched fault is never cleared and stops every write (R32, R185, the
spec's decision D10), a faulting cycle writes the latch alone (its decision D9), the keypad latches are never written (R28, its
decision D31), nor are the parameters (log 2). Of the instructions: `V[x]` changes only by one whose destination field `X` is
`x`, by `Fx65` with `X` at least `x`, or, for VF, by a flag writer; a timer only by its write or the tick; every other part only
by its writers, `PC` apart from the move to `pc0 + 2` only by skips, jumps, call and return. That only `Cxkk` draws a random byte
is said of the model's own fields (log 1). -/
def Obligations.OnlyListedInstructionsWrite : Prop :=
  ∀ (s t : State), step s = .next t →
    (∀ r, s.fault = some r → t.fault = some r ∧ t = s) ∧
    (t.fault ≠ s.fault → s.fault = none ∧ t = { s with fault := t.fault }) ∧
    (∀ bad, s.fetch = .error bad → t = { s with fault := t.fault }) ∧
    t.keys = s.keys ∧ t.params = s.params ∧
    (∀ w : Word, s.fault = none → s.fetch = .ok w →
      (∀ x : Reg, t.getV x ≠ s.getV x →
        (Bits.x w = x ∧ mnemonicOf (decode w) ∈ ["LD_Vx__kk", "ADD_Vx__kk", "LD_Vx__Vy", "OR_Vx__Vy", "AND_Vx__Vy", "XOR_Vx__Vy",
          "ADD_Vx__Vy", "SUB_Vx__Vy", "SHR_Vx", "SUBN_Vx__Vy", "SHL_Vx", "RND_Vx__kk", "LD_Vx__DT", "LD_Vx__K"]) ∨
        (x ≤ Bits.x w ∧ mnemonicOf (decode w) = "LD_Vx___I") ∨
        (x = 15 ∧ mnemonicOf (decode w) ∈
          ["ADD_Vx__Vy", "SUB_Vx__Vy", "SHR_Vx", "SUBN_Vx__Vy", "SHL_Vx", "DRW_Vx__Vy__n"])) ∧
      (t.index ≠ s.index → mnemonicOf (decode w) ∈ ["LD_I__nnn", "ADD_I__Vx", "LD_F__Vx"]) ∧
      (t.pc ≠ s.pc → t.pc ≠ s.pc + 2#16 → mnemonicOf (decode w) ∈ ["SE_Vx__kk", "SNE_Vx__kk", "SE_Vx__Vy", "SNE_Vx__Vy",
        "SKP_Vx", "SKNP_Vx", "JP_nnn", "CALL_nnn", "JP_V0__nnn", "RET"]) ∧
      (t.stack ≠ s.stack → mnemonicOf (decode w) = "CALL_nnn") ∧
      (t.sp ≠ s.sp → mnemonicOf (decode w) ∈ ["CALL_nnn", "RET"]) ∧
      (t.dt ≠ s.dt → mnemonicOf (decode w) = "LD_DT__Vx" ∨ t.dt.toNat + 1 = s.dt.toNat) ∧
      (t.st ≠ s.st → mnemonicOf (decode w) = "LD_ST__Vx" ∨ t.st.toNat + 1 = s.st.toNat) ∧
      (t.fb ≠ s.fb → mnemonicOf (decode w) ∈ ["CLS", "DRW_Vx__Vy__n"]) ∧
      (t.mem ≠ s.mem → mnemonicOf (decode w) ∈ ["LD_B__Vx", "LD__I___Vx"]) ∧
      (t.draws ≠ s.draws ∨ t.rndIn ≠ s.rndIn → mnemonicOf (decode w) = "RND_Vx__kk"))

/-- VF changes only by an instruction that writes it as a side effect or names it as a destination (R21): the flag writers
`8xy4` to `8xy7`, `8xyE`, `Dxyn`, and the instructions whose destination field `X` is F. -/
def Obligations.FlagRegisterChangesOnlyByItsWriters : Prop :=
  ∀ (s t : State) (w : Word), s.fault = none → s.fetch = .ok w → step s = .next t → t.getV 15 ≠ s.getV 15 →
    mnemonicOf (decode w) ∈ ["ADD_Vx__Vy", "SUB_Vx__Vy", "SHR_Vx", "SUBN_Vx__Vy", "SHL_Vx", "DRW_Vx__Vy__n"] ∨
    (Bits.x w = 15 ∧ mnemonicOf (decode w) ∈ ["LD_Vx__kk", "ADD_Vx__kk", "LD_Vx__Vy", "OR_Vx__Vy", "AND_Vx__Vy",
      "XOR_Vx__Vy", "RND_Vx__kk", "LD_Vx__DT", "LD_Vx__K", "LD_Vx___I"])

/-- No instruction reads the sound timer (R27): changing it before a step changes nothing after the step but the sound timer. -/
def Obligations.SoundTimerIsNeverRead : Prop :=
  ∀ (s t : State) (b : Byte), step s = .next t → ∃ b', step (s.setSt b) = .next (t.setSt b')

/-! ### The invariant -/

/-- The invariant holds after `reset()`, whatever the parameters of the block. -/
def Obligations.InvariantAtReset : Prop := ∀ params : Params, StateInv (State.resetWith params)

/-- Every step keeps the invariant, from every state that meets it (10_state.md R37). -/
def Obligations.StepKeepsInvariant : Prop :=
  ∀ s t : State, StateInv s → step s = .next t → StateInv t

/-- The host's operations keep the invariant: `reset()`, `load()` of any bytes, the keypad latches, `cycle(rnd)`; and so does
lining up random bytes, which is no operation of the spec but the model's own on its own field (log 1, DESIGN CHOICE). -/
def Obligations.HostOperationsKeepInvariant : Prop :=
  ∀ s : State, StateInv s →
    StateInv s.afterReset ∧ (∀ bytes, StateInv (s.load bytes).1) ∧ (∀ keys, StateInv (s.setKeys keys)) ∧
    (∀ bytes, StateInv (s.lineUpRnd bytes)) ∧
    (∀ rnd t status, cycle rnd s = .next (t, status) → StateInv t)

/-- Every state that the host can bring about after `reset()`, by any operations in any order, meets the invariant. That the host
acts between steps by functions of its own is the model's choice (log 9, DESIGN CHOICE), as are the random bytes it lines up
(log 1, DESIGN CHOICE). -/
def Obligations.ReachableStatesMeetInvariant : Prop :=
  ∀ s : State, Reachable s → StateInv s

/-! ### Memory -/

/-- The canonical form is one: for a block's parameters, two memories in it whose 4096 bytes read alike are the same list. -/
def Obligations.EqualBytesAreEqualMemories : Prop :=
  ∀ (p : Params) (m m' : Memory), Memory.wf p m = true → Memory.wf p m' = true →
    (∀ a, a < 4096 → Memory.read p m a = Memory.read p m' a) → m = m'

/-- Multi-byte instructions are all-or-nothing (20_memory.md R67): where the range of `Dxyn`, `Fx33`, `Fx55` or `Fx65` leaves
memory, the instruction faults at the lowest address that does not exist, with no byte written, no register loaded and no
pixel toggled. -/
def Obligations.RangeFaultBeforeAnyEffect : Prop :=
  ∀ (x y : Reg) (n : Nibble) (s : State),
    (n ≠ 0 → 4096 < s.index.toNat + n.toNat →
      exec (.drwVxVyN x y n) s = .next (faultedState .address (max s.index.toNat 4096) s)) ∧
    (4096 < s.index.toNat + 3 → exec (.ldBVx x) s = .next (faultedState .address (max s.index.toNat 4096) s)) ∧
    (4096 < s.index.toNat + (x.val + 1) →
      exec (.ldMemVx x) s = .next (faultedState .address (max s.index.toNat 4096) s) ∧
      exec (.ldVxMem x) s = .next (faultedState .address (max s.index.toNat 4096) s))

/-- Self-modifying code: when `Fx55` stores over the two bytes after itself, the next step runs the instruction whose word is
`V[0] ++ V[1]` as stored (R65, derived by the spec). -/
def Obligations.StoredCodeIsFetchedNext : Prop :=
  ∀ (x : Reg) (s : State), Memory.wf s.params s.mem = true → s.fault = none → 1 ≤ x.val → s.index = s.pc + 2#16 →
    s.pc.toNat + 2 + x.val ≤ 4095 →
    ∃ t, exec (.ldMemVx x) s = .next t ∧ step t = exec (decode (wordOfBytes (s.getV 0) (s.getV 1))) t

/-- `Fx55` followed by `Fx65` with the same `X`, memory and `I` brings V0 to VX back, whatever the registers hold in between. -/
def Obligations.StoreThenLoadRestoresRegisters : Prop :=
  ∀ (x : Reg) (s t u : State), Memory.wf s.params s.mem = true → s.index.toNat + x.val ≤ 4095 →
    exec (.ldMemVx x) s = .next t → u.params = t.params → u.mem = t.mem → u.index = t.index →
    ∃ t', exec (.ldVxMem x) u = .next t' ∧ ∀ k : Reg, k ≤ x → t'.getV k = s.getV k

/-! ### Skips (40_skip.md) -/

/-- `3xkk` skips if `V[X]` = `KK`, `4xkk` if not; `PC` ends at `pc0 + 4` or `pc0 + 2` and nothing else changes (R100 to R102; the
conditions are the spec's general knowledge). -/
def Obligations.SkipOnImmediate : Prop :=
  ∀ (x : Reg) (kk : Byte) (s : State),
    decode (BitVec.ofNat 16 (0x3000 + 0x100 * x.val + kk.toNat)) = .seVxKk x kk ∧
    decode (BitVec.ofNat 16 (0x4000 + 0x100 * x.val + kk.toNat)) = .sneVxKk x kk ∧
    (∃ t, exec (.seVxKk x kk) s = .next t ∧
      CompletesAt (if (s.getV x).toNat = kk.toNat then s.pc + 4#16 else s.pc + 2#16) [] s t) ∧
    (∃ t, exec (.sneVxKk x kk) s = .next t ∧
      CompletesAt (if (s.getV x).toNat = kk.toNat then s.pc + 2#16 else s.pc + 4#16) [] s t)

/-- `5xyN` skips if `V[X]` = `V[Y]`, `9xyN` if not, for every low nibble (R103, R104; the conditions are the spec's general
knowledge, the ignored nibble its decision D34). -/
def Obligations.SkipOnRegisters : Prop :=
  ∀ (x y : Reg) (n : Nibble) (s : State),
    decode (BitVec.ofNat 16 (0x5000 + 0x100 * x.val + 0x10 * y.val + n.toNat)) = .seVxVy x y n ∧
    decode (BitVec.ofNat 16 (0x9000 + 0x100 * x.val + 0x10 * y.val + n.toNat)) = .sneVxVy x y n ∧
    (∃ t, exec (.seVxVy x y n) s = .next t ∧
      CompletesAt (if (s.getV x).toNat = (s.getV y).toNat then s.pc + 4#16 else s.pc + 2#16) [] s t) ∧
    (∃ t, exec (.sneVxVy x y n) s = .next t ∧
      CompletesAt (if (s.getV x).toNat = (s.getV y).toNat then s.pc + 2#16 else s.pc + 4#16) [] s t)

/-- `Ex9E` skips if the key numbered `V[X]` is held, `ExA1` if it is not, for every key number 0..15 (R105, R106; the key tested
is the spec's general knowledge). -/
def Obligations.SkipOnKey : Prop :=
  ∀ (x : Reg) (k : Fin 16) (s : State), (s.getV x).toNat = k.val →
    decode (BitVec.ofNat 16 (0xE09E + 0x100 * x.val)) = .skpVx x ∧
    decode (BitVec.ofNat 16 (0xE0A1 + 0x100 * x.val)) = .sknpVx x ∧
    (∃ t, exec (.skpVx x) s = .next t ∧
      CompletesAt (if s.keys[k.val] = true then s.pc + 4#16 else s.pc + 2#16) [] s t) ∧
    (∃ t, exec (.sknpVx x) s = .next t ∧
      CompletesAt (if s.keys[k.val] = true then s.pc + 2#16 else s.pc + 4#16) [] s t)

/-- A key number above 15 is an addressing fault that records it, whether or not the skip would be taken (R105, R106, the spec's
decision D13). -/
def Obligations.KeyNumberAboveFifteenFaults : Prop :=
  ∀ (x : Reg) (s : State), 15 < (s.getV x).toNat →
    exec (.skpVx x) s = .next (faultedState .address (s.getV x).toNat s) ∧
    exec (.sknpVx x) s = .next (faultedState .address (s.getV x).toNat s)

/-! ### Jump, call, return (41_jump_call.md) -/

/-- `1nnn` leaves `PC` = `NNN` and `Bnnn` leaves it `NNN + V[0]`, not reduced to 12 bits; nothing else changes (R110, R113; the
targets are the spec's general knowledge, the width its decision D24). -/
def Obligations.JumpsGoToTarget : Prop :=
  ∀ (nnn : Addr) (s : State),
    decode (BitVec.ofNat 16 (0x1000 + nnn.toNat)) = .jpNnn nnn ∧
    decode (BitVec.ofNat 16 (0xB000 + nnn.toNat)) = .jpV0Nnn nnn ∧
    (∃ t, exec (.jpNnn nnn) s = .next t ∧ CompletesAt (BitVec.ofNat 16 nnn.toNat) [] s t) ∧
    (∃ t, exec (.jpV0Nnn nnn) s = .next t ∧ t.pc.toNat = nnn.toNat + (s.getV 0).toNat ∧ CompletesAt t.pc [] s t)

/-- `2nnn` with a free entry pushes `pc0 + 2` and jumps to `NNN`; with all 16 entries occupied it is a stack fault that records 16
and changes nothing (R111; the target is the spec's general knowledge). -/
def Obligations.CallPushesReturnAddress : Prop :=
  ∀ (nnn : Addr) (s : State),
    decode (BitVec.ofNat 16 (0x2000 + nnn.toNat)) = .callNnn nnn ∧
    (s.sp.val < 16 → ∃ t, exec (.callNnn nnn) s = .next t ∧ t.sp.val = s.sp.val + 1 ∧
      (∀ k : Fin 16, t.stack[k.val] = if k.val = s.sp.val then s.pc + 2#16 else s.stack[k.val]) ∧
      CompletesAt (BitVec.ofNat 16 nnn.toNat) [.stack, .sp] s t) ∧
    (s.sp.val = 16 → exec (.callNnn nnn) s = .next (faultedState .stack 16 s))

/-- `00EE`, every word `0x0**E`: with an entry on the stack `SP` goes down by one and `PC` is the entry it then names, which keeps
its value; with an empty stack it is a stack fault that records 0 and changes nothing; and after a call a return with the same
stack leaves `PC` = `pc0 + 2` and `SP` as before the call (41_jump_call.md R112). -/
def Obligations.ReturnPopsEntry : Prop :=
  ∀ (u : Byte) (s : State),
    decode (BitVec.ofNat 16 (0x000E + 0x10 * u.toNat)) = .ret u ∧
    (∀ k : Fin 16, k.val + 1 = s.sp.val → ∃ t, exec (.ret u) s = .next t ∧ t.sp.val = k.val ∧
      CompletesAt s.stack[k.val] [.sp] s t) ∧
    (s.sp.val = 0 → exec (.ret u) s = .next (faultedState .stack 0 s)) ∧
    (∀ (nnn : Addr) (t t' : State), s.sp.val < 16 → exec (.callNnn nnn) s = .next t → t'.stack = t.stack → t'.sp = t.sp →
      ∃ r, exec (.ret u) t' = .next r ∧ r.pc = s.pc + 2#16 ∧ r.sp = s.sp)

/-- A jump to its own address is an endless loop in which only the timers change: after any number of steps the state is the one
before, but for the timers, which have gone down by that number, clamped at zero; and it is safe throughout (R110, R192). This is a run in which the host only calls `cycle()`: it loads nothing
and sets no key between the steps (log 9, DESIGN CHOICE). -/
def Obligations.JumpToSelfOnlyTicksTimers : Prop :=
  ∀ (s : State) (k : Nat), s.fault = none → s.pc.toNat < 4096 → s.fetch = .ok (0x1000#16 + s.pc) →
    SafeFor k s ∧
    ∃ t, Host.Core.run Sys2Proof.core k s = .next t ∧ t.dt.toNat = s.dt.toNat - k ∧ t.st.toNat = s.st.toNat - k ∧
      t = { s with dt := t.dt, st := t.st }

/-! ### Register loads and the ALU (42_alu.md) -/

/-- `6xkk` loads `KK` (R131, general knowledge of the spec); nothing else changes. -/
def Obligations.LoadImmediate : Prop :=
  ∀ (x : Reg) (kk : Byte) (s : State),
    decode (BitVec.ofNat 16 (0x6000 + 0x100 * x.val + kk.toNat)) = .ldVxKk x kk ∧
    ∃ t, exec (.ldVxKk x kk) s = .next t ∧ t.getV x = kk ∧ CompletesAt (s.pc + 2#16) [.v x] s t

/-- `7xkk` adds `KK` modulo 256 with no flag: no register but `V[X]` changes, VF included (42_alu.md R133). -/
def Obligations.AddImmediateHasNoFlag : Prop :=
  ∀ (x : Reg) (kk : Byte) (s : State),
    decode (BitVec.ofNat 16 (0x7000 + 0x100 * x.val + kk.toNat)) = .addVxKk x kk ∧
    ∃ t, exec (.addVxKk x kk) s = .next t ∧ (t.getV x).toNat = ((s.getV x).toNat + kk.toNat) % 256 ∧
      CompletesAt (s.pc + 2#16) [.v x] s t

/-- `8xy0` to `8xy3` copy, or, and, exclusive-or, bit by bit, and write no flag (R122 to R125; the encodings are the spec's general
knowledge, VF unwritten its decision D17). -/
def Obligations.CopyAndLogicWriteNoFlag : Prop :=
  ∀ (x y : Reg) (s : State),
    decode (BitVec.ofNat 16 (0x8000 + 0x100 * x.val + 0x10 * y.val)) = .ldVxVy x y ∧
    decode (BitVec.ofNat 16 (0x8001 + 0x100 * x.val + 0x10 * y.val)) = .orVxVy x y ∧
    decode (BitVec.ofNat 16 (0x8002 + 0x100 * x.val + 0x10 * y.val)) = .andVxVy x y ∧
    decode (BitVec.ofNat 16 (0x8003 + 0x100 * x.val + 0x10 * y.val)) = .xorVxVy x y ∧
    (∃ t, exec (.ldVxVy x y) s = .next t ∧ t.getV x = s.getV y ∧ CompletesAt (s.pc + 2#16) [.v x] s t) ∧
    (∃ t, exec (.orVxVy x y) s = .next t ∧
      (∀ b, b < 8 → (t.getV x).getLsbD b = ((s.getV x).getLsbD b || (s.getV y).getLsbD b)) ∧
      CompletesAt (s.pc + 2#16) [.v x] s t) ∧
    (∃ t, exec (.andVxVy x y) s = .next t ∧
      (∀ b, b < 8 → (t.getV x).getLsbD b = ((s.getV x).getLsbD b && (s.getV y).getLsbD b)) ∧
      CompletesAt (s.pc + 2#16) [.v x] s t) ∧
    (∃ t, exec (.xorVxVy x y) s = .next t ∧
      (∀ b, b < 8 → (t.getV x).getLsbD b = ((s.getV x).getLsbD b ^^ (s.getV y).getLsbD b)) ∧
      CompletesAt (s.pc + 2#16) [.v x] s t)

/-- `8xy4`: the low byte of the true sum goes to `V[X]` and VF is 1 if the sum exceeds 255, else 0 (R126); with VF the destination it
holds the sum, the spec's decision D15 (log 12). -/
def Obligations.AddSetsCarry : Prop :=
  ∀ (x y : Reg) (s : State),
    decode (BitVec.ofNat 16 (0x8004 + 0x100 * x.val + 0x10 * y.val)) = .addVxVy x y ∧
    ∃ t, exec (.addVxVy x y) s = .next t ∧
      (t.getV x).toNat = ((s.getV x).toNat + (s.getV y).toNat) % 256 ∧
      (x ≠ 15 → (t.getV 15).toNat = if 255 < (s.getV x).toNat + (s.getV y).toNat then 1 else 0) ∧
      CompletesAt (s.pc + 2#16) [.v x, .v 15] s t

/-- `8xy5`: the difference modulo 256 goes to `V[X]` and VF is 1 if `vx ≥ vy`, equality included, else 0 (R127). With VF the destination
it holds the difference, and with VF an operand its old value is the one used: the spec's decision D15 (log 12). -/
def Obligations.SubtractSetsNoBorrow : Prop :=
  ∀ (x y : Reg) (s : State),
    decode (BitVec.ofNat 16 (0x8005 + 0x100 * x.val + 0x10 * y.val)) = .subVxVy x y ∧
    ∃ t, exec (.subVxVy x y) s = .next t ∧
      ((t.getV x).toNat : Int) = (((s.getV x).toNat : Int) - ((s.getV y).toNat : Int)) % 256 ∧
      (x ≠ 15 → (t.getV 15).toNat = if (s.getV y).toNat ≤ (s.getV x).toNat then 1 else 0) ∧
      CompletesAt (s.pc + 2#16) [.v x, .v 15] s t

/-- `8xy7`: `V[Y] - V[X]` modulo 256 goes to `V[X]` and VF is 1 if `vy ≥ vx`, else 0 (R129, the spec's decision D16; with VF the
destination its decision D15). -/
def Obligations.ReverseSubtractSetsNoBorrow : Prop :=
  ∀ (x y : Reg) (s : State),
    decode (BitVec.ofNat 16 (0x8007 + 0x100 * x.val + 0x10 * y.val)) = .subnVxVy x y ∧
    ∃ t, exec (.subnVxVy x y) s = .next t ∧
      ((t.getV x).toNat : Int) = (((s.getV y).toNat : Int) - ((s.getV x).toNat : Int)) % 256 ∧
      (x ≠ 15 → (t.getV 15).toNat = if (s.getV x).toNat ≤ (s.getV y).toNat then 1 else 0) ∧
      CompletesAt (s.pc + 2#16) [.v x, .v 15] s t

/-- `8xy6` and `8xyE`, for every `Y`: `V[X]` is halved or doubled modulo 256, VF receives the bit shifted out, and `V[Y]` is not
consulted (R128, R130; with VF the destination the spec's decision D15). -/
def Obligations.ShiftsCaptureBitShiftedOut : Prop :=
  ∀ (x y : Reg) (s : State),
    decode (BitVec.ofNat 16 (0x8006 + 0x100 * x.val + 0x10 * y.val)) = .shrVx x y ∧
    decode (BitVec.ofNat 16 (0x800E + 0x100 * x.val + 0x10 * y.val)) = .shlVx x y ∧
    (∃ t, exec (.shrVx x y) s = .next t ∧ (t.getV x).toNat = (s.getV x).toNat / 2 ∧
      (x ≠ 15 → (t.getV 15).toNat = (s.getV x).toNat % 2) ∧ CompletesAt (s.pc + 2#16) [.v x, .v 15] s t) ∧
    (∃ t, exec (.shlVx x y) s = .next t ∧ (t.getV x).toNat = (s.getV x).toNat * 2 % 256 ∧
      (x ≠ 15 → (t.getV 15).toNat = (s.getV x).toNat / 128) ∧ CompletesAt (s.pc + 2#16) [.v x, .v 15] s t)

/-- `Cxkk` stores the random byte masked by `KK` and draws it. Whatever byte the driver gives `cycle(rnd)` is the one used; with none
lined up it is the model's free value, of which nothing is known (R132, the spec's decision D23; log 1). -/
def Obligations.RandomByteIsMasked : Prop :=
  ∀ (x : Reg) (kk : Byte) (s : State),
    decode (BitVec.ofNat 16 (0xC000 + 0x100 * x.val + kk.toNat)) = .rndVxKk x kk ∧
    (∃ t, exec (.rndVxKk x kk) s = .next t ∧
      t.getV x = (match s.rndIn with | b :: _ => b | [] => Config.freeRandomByte s.draws) &&& kk ∧
      t.rndIn = s.rndIn.tail ∧ t.draws = s.draws + 1 ∧ CompletesAt (s.pc + 2#16) [.v x, .rnd] s t) ∧
    (∀ rnd : Byte, s.fault = none → s.fetch = .ok (BitVec.ofNat 16 (0xC000 + 0x100 * x.val + kk.toNat)) →
      ∃ t, cycle rnd s = .next (t, .done) ∧ t.getV x = rnd &&& kk)

/-! ### Display (43_display.md) -/

/-- `00E0`, every word `0x0**0`: every framebuffer cell reads 0x00000000; nothing else changes (43_display.md R140). -/
def Obligations.ClearScreenUnlightsEveryCell : Prop :=
  ∀ (u : Byte) (s : State),
    decode (BitVec.ofNat 16 (0x0000 + 0x10 * u.toNat)) = .cls u ∧
    ∃ t, exec (.cls u) s = .next t ∧ (∀ p, t.fbCell p = 0x00000000#32) ∧ CompletesAt (s.pc + 2#16) [.fb] s t

/-- A framebuffer cell reads as one of two values, and two states with the same cells have the same framebuffer. That one bit a cell
carries all the information is the model's choice (log 5, DEDUCED), from a sentence of R29 that the spec marks derived. -/
def Obligations.FramebufferCellsAreTwoValued : Prop :=
  ∀ s : State, (∀ p, s.fbCell p = 0xFFFFFFFF#32 ∨ s.fbCell p = 0x00000000#32) ∧
    ∀ t : State, (∀ p, s.fbCell p = t.fbCell p) → s.fb = t.fb

/-- `Dxyn` whose rows are all in memory, or that has none: each cell under a 1 bit of the sprite is inverted, every other keeps its
value, coordinates wrap modulo 64 and 32; VF is 1 if a lit cell went out, else 0, also for no rows (R141 to R143; the wrap, no
rows and the sampling order are the spec's decisions D18, D19, D20). -/
def Obligations.DrawInvertsSpriteCells : Prop :=
  ∀ (x y : Reg) (n : Nibble) (s : State), n = 0 ∨ s.index.toNat + n.toNat ≤ 4096 →
    decode (BitVec.ofNat 16 (0xD000 + 0x100 * x.val + 0x10 * y.val + n.toNat)) = .drwVxVyN x y n ∧
    ∃ t, exec (.drwVxVyN x y n) s = .next t ∧
      (∀ p, SpriteCovers x y n s p → t.fbCell p = s.fbCell p ^^^ 0xFFFFFFFF#32) ∧
      (∀ p, ¬ SpriteCovers x y n s p → t.fbCell p = s.fbCell p) ∧
      ((t.getV 15).toNat = 1 ∨ (t.getV 15).toNat = 0) ∧
      ((t.getV 15).toNat = 1 ↔ ∃ p, SpriteCovers x y n s p ∧ s.fbCell p = 0xFFFFFFFF#32) ∧
      CompletesAt (s.pc + 2#16) [.fb, .v 15] s t

/-- Drawing the same sprite twice at the same place restores the framebuffer exactly, and the second draw sets VF to 1 if the
sprite had a 1 bit and the first draw found its pixels unlit (R143, derived by the spec). -/
def Obligations.DrawTwiceRestoresFramebuffer : Prop :=
  ∀ (x y : Reg) (n : Nibble) (s t u : State), s.index.toNat + n.toNat ≤ 4096 →
    exec (.drwVxVyN x y n) s = .next t →
    u.fb = t.fb → u.params = s.params → u.mem = s.mem → u.index = s.index → u.getV x = s.getV x → u.getV y = s.getV y →
    ∃ r, exec (.drwVxVyN x y n) u = .next r ∧ r.fb = s.fb ∧
      ((∃ p, SpriteCovers x y n s p) → (∀ p, SpriteCovers x y n s p → s.fbCell p = 0x00000000#32) →
        (r.getV 15).toNat = 1)

/-! ### Index register and memory transfer (44_index_memory.md) -/

/-- `Annn` loads `NNN` into `I` and `Fx29` loads `FONT_BASE + 5 * V[X]`, the whole value of `V[X]`, for every `FONT_BASE` (R150, general
knowledge of the spec; R152, its decision D14; log 2). -/
def Obligations.IndexLoads : Prop :=
  ∀ (nnn : Addr) (x : Reg) (s : State),
    decode (BitVec.ofNat 16 (0xA000 + nnn.toNat)) = .ldINnn nnn ∧
    decode (BitVec.ofNat 16 (0xF029 + 0x100 * x.val)) = .ldFVx x ∧
    (∃ t, exec (.ldINnn nnn) s = .next t ∧ t.index.toNat = nnn.toNat ∧ CompletesAt (s.pc + 2#16) [.index] s t) ∧
    (∃ t, exec (.ldFVx x) s = .next t ∧ t.index.toNat = s.params.fontBase.val + 5 * (s.getV x).toNat ∧
      CompletesAt (s.pc + 2#16) [.index] s t)

/-- `Fx1E` adds `V[X]` to `I` unmasked and writes no flag; a sum above 0xFFFF is an addressing fault that records the sum (R151, the
spec's decision D12). -/
def Obligations.AddToIndexOrFault : Prop :=
  ∀ (x : Reg) (s : State),
    decode (BitVec.ofNat 16 (0xF01E + 0x100 * x.val)) = .addIVx x ∧
    (s.index.toNat + (s.getV x).toNat ≤ 0xFFFF → ∃ t, exec (.addIVx x) s = .next t ∧
      t.index.toNat = s.index.toNat + (s.getV x).toNat ∧ CompletesAt (s.pc + 2#16) [.index] s t) ∧
    (0xFFFF < s.index.toNat + (s.getV x).toNat →
      exec (.addIVx x) s = .next (faultedState .address (s.index.toNat + (s.getV x).toNat) s))

/-- `Fx33` stores the hundreds, tens and ones digits of `V[X]` at `I`, `I + 1`, `I + 2`, one digit a byte, and no other byte, when
the three bytes exist; otherwise it is an addressing fault that records `max(I, 4096)` and writes no byte
(44_index_memory.md R153). -/
def Obligations.StoreDecimalDigits : Prop :=
  ∀ (x : Reg) (s : State),
    decode (BitVec.ofNat 16 (0xF033 + 0x100 * x.val)) = .ldBVx x ∧
    (indexAddr s + 2 ≤ 4095 → ∃ t, exec (.ldBVx x) s = .next t ∧
      (Memory.wf s.params s.mem = true →
        (Memory.read t.params t.mem s.index.toNat).toNat = (s.getV x).toNat / 100 ∧
        (Memory.read t.params t.mem (s.index.toNat + 1)).toNat = (s.getV x).toNat / 10 % 10 ∧
        (Memory.read t.params t.mem (s.index.toNat + 2)).toNat = (s.getV x).toNat % 10) ∧
      MemorySameOutside (indexAddr s) 3 s t ∧ CompletesAt (s.pc + 2#16) [.mem] s t) ∧
    (4095 < indexAddr s + 2 → exec (.ldBVx x) s = .next (faultedState .address (max s.index.toNat 4096) s))

/-- `Fx55` stores V0 to VX at `I .. I + X`, V0 at the lowest address, and no other byte; `I` and the registers keep their values;
when a byte does not exist it is an addressing fault that records `max(I, 4096)` and writes none (44_index_memory.md R154). -/
def Obligations.StoreRegisterBlock : Prop :=
  ∀ (x : Reg) (s : State),
    decode (BitVec.ofNat 16 (0xF055 + 0x100 * x.val)) = .ldMemVx x ∧
    (indexAddr s + x.val ≤ 4095 → ∃ t, exec (.ldMemVx x) s = .next t ∧
      (Memory.wf s.params s.mem = true → ∀ k : Reg, k ≤ x → Memory.read t.params t.mem (s.index.toNat + k.val) = s.getV k) ∧
      MemorySameOutside (indexAddr s) (x.val + 1) s t ∧ CompletesAt (s.pc + 2#16) [.mem] s t) ∧
    (4095 < indexAddr s + x.val → exec (.ldMemVx x) s = .next (faultedState .address (max s.index.toNat 4096) s))

/-- `Fx65` loads V0 to VX from `I .. I + X`; registers above X, `I` and memory keep their values; when a byte does not exist it is an
addressing fault that records `max(I, 4096)` and loads none (44_index_memory.md R155). -/
def Obligations.LoadRegisterBlock : Prop :=
  ∀ (x : Reg) (s : State),
    decode (BitVec.ofNat 16 (0xF065 + 0x100 * x.val)) = .ldVxMem x ∧
    (s.index.toNat + x.val ≤ 4095 → ∃ t, exec (.ldVxMem x) s = .next t ∧
      (∀ k : Reg, k ≤ x → t.getV k = Memory.read s.params s.mem (s.index.toNat + k.val)) ∧
      (∀ k : Reg, x < k → t.getV k = s.getV k) ∧
      CompletesAt (s.pc + 2#16) ((List.finRange 16).map StatePart.v) s t) ∧
    (4095 < s.index.toNat + x.val → exec (.ldVxMem x) s = .next (faultedState .address (max s.index.toNat 4096) s))

/-! ### Timers and key wait (45_timer_key.md) -/

/-- `Fx07` reads the delay timer as it stood before this cycle's tick (R160, general knowledge of the spec). -/
def Obligations.ReadDelayTimerBeforeTick : Prop :=
  ∀ (x : Reg) (s : State),
    decode (BitVec.ofNat 16 (0xF007 + 0x100 * x.val)) = .ldVxDt x ∧
    ∃ t, exec (.ldVxDt x) s = .next t ∧ t.getV x = s.dt ∧ CompletesAt (s.pc + 2#16) [.v x] s t

/-- `Fx15` and `Fx18` write a timer and the tick of the same cycle follows: it ends one lower than `V[X]`, clamped at zero, while the
other timer ticks as ever (R161, R162; the encodings are the spec's general knowledge, the end value derived by it). -/
def Obligations.SetTimersThenTick : Prop :=
  ∀ (x : Reg) (s : State),
    decode (BitVec.ofNat 16 (0xF015 + 0x100 * x.val)) = .ldDtVx x ∧
    decode (BitVec.ofNat 16 (0xF018 + 0x100 * x.val)) = .ldStVx x ∧
    (∃ t, exec (.ldDtVx x) s = .next t ∧ t.pc = s.pc + 2#16 ∧ TickedFrom (s.getV x) t.dt ∧ TickedFrom s.st t.st ∧
      OnlyChanges [] s t) ∧
    (∃ t, exec (.ldStVx x) s = .next t ∧ t.pc = s.pc + 2#16 ∧ TickedFrom s.dt t.dt ∧ TickedFrom (s.getV x) t.st ∧
      OnlyChanges [] s t)

/-- `Fx0A` with a key held completes and stores the least key held; with none it changes nothing at all (R163, the spec's decisions
D21, D22). -/
def Obligations.KeyWaitStoresLeastKey : Prop :=
  ∀ (x : Reg) (s : State),
    decode (BitVec.ofNat 16 (0xF00A + 0x100 * x.val)) = .ldVxK x ∧
    (∀ k : Fin 16, s.keys[k.val] = true → (∀ j : Fin 16, j < k → s.keys[j.val] = false) →
      ∃ t, exec (.ldVxK x) s = .next t ∧ (t.getV x).toNat = k.val ∧ CompletesAt (s.pc + 2#16) [.v x] s t) ∧
    ((∀ k : Fin 16, s.keys[k.val] = false) → exec (.ldVxK x) s = .next s)

/-! ### Unassigned words (46_unassigned.md) -/

/-- The no-op (46_unassigned.md R170): an instruction with no handler does nothing at all, whatever its operand fields hold; its cycle
completes with status `Done`, `PC` = `pc0 + 2`, the timers ticked and nothing else changed. -/
def Obligations.UnassignedWordsDoNothing : Prop :=
  (∀ (i : Instr) (s : State), mnemonicOf i ∈ ["SYS_nnn", "NOP8", "NOPE", "NOPF"] →
    ∃ t, exec i s = .next t ∧ CompletesAt (s.pc + 2#16) [] s t) ∧
  (∀ (rnd : Byte) (w : Word) (s : State), s.fault = none → s.fetch = .ok w →
    mnemonicOf (decode w) ∈ ["SYS_nnn", "NOP8", "NOPE", "NOPF"] →
    ∃ t, cycle rnd s = .next (t, .done) ∧ CompletesAt (s.pc + 2#16) [] s t)

/-- Which words the four unassigned spaces hold (R171 to R174; which low bytes of family F and which nibbles of family 8 are
assigned is in part the spec's general knowledge). -/
def Obligations.UnassignedSpaces : Prop :=
  ∀ w : Word,
    (mnemonicOf (decode w) = "SYS_nnn" ↔ w.toNat / 4096 = 0x0 ∧ w.toNat % 16 ∉ [0x0, 0xE]) ∧
    (mnemonicOf (decode w) = "NOP8" ↔
      w.toNat / 4096 = 0x8 ∧ w.toNat % 16 ∈ [0x8, 0x9, 0xA, 0xB, 0xC, 0xD, 0xF]) ∧
    (mnemonicOf (decode w) = "NOPE" ↔ w.toNat / 4096 = 0xE ∧ w.toNat % 256 ∉ [0x9E, 0xA1]) ∧
    (mnemonicOf (decode w) = "NOPF" ↔
      w.toNat / 4096 = 0xF ∧ w.toNat % 256 ∉ [0x07, 0x0A, 0x15, 0x18, 0x1E, 0x29, 0x33, 0x55, 0x65])

/-! ### Reset and load (70_reset_and_hazards.md) -/

/-- The state after `reset()`, whatever the state before (R35, R200): registers, `I`, stack, `SP`, timers, keypad and framebuffer
clear, `PC` = 0x200, no fault (the spec's decision D27), memory zero but for the 80 bytes of `FONT` at `FONT_BASE`, both as the
block's parameters have them. `State.reset` is that state for the default parameters: 0x050 and the table of R60 (its decisions
D3 and D4; logs 2 and 3). -/
def Obligations.ResetValues : Prop :=
  (∀ u : State,
    (∀ r, u.afterReset.getV r = 0) ∧ u.afterReset.index = 0 ∧ u.afterReset.pc = 0x0200 ∧
    (∀ k : Fin 16, u.afterReset.stack[k.val] = 0) ∧ u.afterReset.sp = 0 ∧ u.afterReset.dt = 0 ∧ u.afterReset.st = 0 ∧
    (∀ k : Fin 16, u.afterReset.keys[k.val] = false) ∧ (∀ p, u.afterReset.fbCell p = 0x00000000#32) ∧
    u.afterReset.fault = none ∧ u.afterReset.params = u.params ∧
    (∀ a, a < u.params.fontBase.val ∨ u.params.fontBase.val + 80 ≤ a → Memory.read u.params u.afterReset.mem a = 0) ∧
    (∀ k : Fin 80, Memory.read u.params u.afterReset.mem (u.params.fontBase.val + k.val) = u.params.font[k.val])) ∧
  State.reset.afterReset = State.reset ∧ State.reset.params.fontBase.val = 0x050 ∧
  State.reset.params.font.toList =
    [0xF0, 0x90, 0x90, 0x90, 0xF0, 0x20, 0x60, 0x20, 0x20, 0x70] ++ [0xF0, 0x10, 0xF0, 0x80, 0xF0, 0xF0, 0x10, 0xF0, 0x10, 0xF0] ++
    [0x90, 0x90, 0xF0, 0x10, 0x10, 0xF0, 0x80, 0xF0, 0x10, 0xF0] ++ [0xF0, 0x80, 0xF0, 0x90, 0xF0, 0xF0, 0x10, 0x20, 0x40, 0x40] ++
    [0xF0, 0x90, 0xF0, 0x90, 0xF0, 0xF0, 0x90, 0xF0, 0x10, 0xF0] ++ [0xF0, 0x90, 0xF0, 0x90, 0x90, 0xE0, 0x90, 0xE0, 0x90, 0xE0] ++
    [0xF0, 0x80, 0x80, 0x80, 0xF0, 0xE0, 0x90, 0x90, 0x90, 0xE0] ++ [0xF0, 0x80, 0xF0, 0x80, 0xF0, 0xF0, 0x80, 0xF0, 0x80, 0x80]

/-- `load()` of at most 3584 bytes succeeds and writes exactly those bytes from 0x200 on and nothing else, a latched fault included;
of more it fails and changes nothing (R203, R204, the spec's decision D26). -/
def Obligations.LoadWritesProgramOrRefuses : Prop :=
  ∀ (bytes : List Byte) (s : State),
    (bytes.length ≤ 3584 →
      (s.load bytes).2 = .loadOk ∧ (s.load bytes).1 = { s with mem := (s.load bytes).1.mem } ∧
      (Memory.wf s.params s.mem = true → ∀ k (h : k < bytes.length),
        Memory.read s.params (s.load bytes).1.mem (0x200 + k) = bytes[k]) ∧
      MemorySameOutside 0x200 bytes.length s (s.load bytes).1) ∧
    (3584 < bytes.length → s.load bytes = (s, .romTooLarge))
end

