-- ==== Sys2Proof/Laws/Decode.lean ====
section
/-! SUPPORT. The fields of a word and the words of the encoder as numbers, and the opcode map's rows. -/

namespace Sys2Proof

/-! ### The fields of a word as numbers (30_encoding.md R71) -/

namespace Bits

@[simp] theorem toNat_op (w : Word) : (op w).toNat = w.toNat / 4096 := by
  have := w.isLt
  simp [op, Nat.shiftRight_eq_div_pow]
  omega

@[simp] theorem val_x (w : Word) : (x w).val = w.toNat / 256 % 16 := by
  simp [x, Nat.shiftRight_eq_div_pow]

@[simp] theorem val_y (w : Word) : (y w).val = w.toNat / 16 % 16 := by
  simp [y, Nat.shiftRight_eq_div_pow]

@[simp] theorem toNat_n (w : Word) : (n w).toNat = w.toNat % 16 := by
  simp [n]

@[simp] theorem toNat_kk (w : Word) : (kk w).toNat = w.toNat % 256 := by
  simp [kk]

@[simp] theorem toNat_nnn (w : Word) : (nnn w).toNat = w.toNat % 4096 := by
  simp [nnn]

@[simp] theorem toNat_mid (w : Word) : (mid w).toNat = w.toNat / 16 % 256 := by
  simp [mid, Nat.shiftRight_eq_div_pow]

end Bits

/-! ### The encoder's words as numbers (30_encoding.md R72) -/

@[simp] theorem toNat_regBits (r : Reg) : (regBits r).toNat = r.val := by
  have := r.isLt
  simp [regBits]

/-- Two fields side by side as a number. -/
theorem toNat_append_add {n m : Nat} (a : BitVec n) (b : BitVec m) : (a ++ b).toNat = a.toNat * 2 ^ m + b.toNat := by
  rw [BitVec.toNat_append, ← Nat.shiftLeft_add_eq_or_of_lt b.isLt, Nat.shiftLeft_eq]

@[simp] theorem toNat_wordA (op : Nibble) (nnn : Addr) : (wordA op nnn).toNat = op.toNat * 4096 + nnn.toNat :=
  toNat_append_add op nnn

@[simp] theorem toNat_wordXK (op : Nibble) (x : Reg) (kk : Byte) :
    (wordXK op x kk).toNat = op.toNat * 4096 + x.val * 256 + kk.toNat := by
  have := toNat_append_add (op ++ regBits x) kk
  rw [toNat_append_add op (regBits x), toNat_regBits] at this
  exact this.trans (by omega)

@[simp] theorem toNat_wordXYN (op : Nibble) (x y : Reg) (n : Nibble) :
    (wordXYN op x y n).toNat = op.toNat * 4096 + x.val * 256 + y.val * 16 + n.toNat := by
  have := toNat_append_add (op ++ regBits x ++ regBits y) n
  rw [toNat_append_add (op ++ regBits x) (regBits y), toNat_append_add op (regBits x), toNat_regBits, toNat_regBits] at this
  exact this.trans (by omega)

@[simp] theorem toNat_wordZ (u : Byte) (n : Nibble) : (wordZ u n).toNat = u.toNat * 16 + n.toNat := by
  have := toNat_append_add (0x0#4 ++ u) n
  rw [toNat_append_add (0x0#4) u] at this
  exact this.trans (by simp)

/-! ### The fields of the encoder's words -/

@[simp] theorem Bits.op_wordA (op : Nibble) (nnn : Addr) : Bits.op (wordA op nnn) = op := by
  have := op.isLt
  have := nnn.isLt
  apply BitVec.eq_of_toNat_eq
  simp
  try omega

@[simp] theorem Bits.nnn_wordA (op : Nibble) (nnn : Addr) : Bits.nnn (wordA op nnn) = nnn := by
  have := op.isLt
  have := nnn.isLt
  apply BitVec.eq_of_toNat_eq
  simp
  try omega

@[simp] theorem Bits.op_wordXK (op : Nibble) (x : Reg) (kk : Byte) : Bits.op (wordXK op x kk) = op := by
  have := op.isLt
  have := x.isLt
  have := kk.isLt
  apply BitVec.eq_of_toNat_eq
  simp
  try omega

@[simp] theorem Bits.x_wordXK (op : Nibble) (x : Reg) (kk : Byte) : Bits.x (wordXK op x kk) = x := by
  have := op.isLt
  have := x.isLt
  have := kk.isLt
  apply Fin.ext
  simp
  try omega

@[simp] theorem Bits.kk_wordXK (op : Nibble) (x : Reg) (kk : Byte) : Bits.kk (wordXK op x kk) = kk := by
  have := op.isLt
  have := x.isLt
  have := kk.isLt
  apply BitVec.eq_of_toNat_eq
  simp
  try omega

@[simp] theorem Bits.op_wordXYN (op : Nibble) (x y : Reg) (n : Nibble) : Bits.op (wordXYN op x y n) = op := by
  have := op.isLt
  have := x.isLt
  have := y.isLt
  have := n.isLt
  apply BitVec.eq_of_toNat_eq
  simp
  try omega

@[simp] theorem Bits.x_wordXYN (op : Nibble) (x y : Reg) (n : Nibble) : Bits.x (wordXYN op x y n) = x := by
  have := op.isLt
  have := x.isLt
  have := y.isLt
  have := n.isLt
  apply Fin.ext
  simp
  try omega

@[simp] theorem Bits.y_wordXYN (op : Nibble) (x y : Reg) (n : Nibble) : Bits.y (wordXYN op x y n) = y := by
  have := op.isLt
  have := x.isLt
  have := y.isLt
  have := n.isLt
  apply Fin.ext
  simp
  try omega

@[simp] theorem Bits.n_wordXYN (op : Nibble) (x y : Reg) (n : Nibble) : Bits.n (wordXYN op x y n) = n := by
  have := op.isLt
  have := x.isLt
  have := y.isLt
  have := n.isLt
  apply BitVec.eq_of_toNat_eq
  simp
  try omega

@[simp] theorem Bits.op_wordZ (u : Byte) (n : Nibble) : Bits.op (wordZ u n) = 0 := by
  have := u.isLt
  have := n.isLt
  apply BitVec.eq_of_toNat_eq
  simp
  try omega

@[simp] theorem Bits.mid_wordZ (u : Byte) (n : Nibble) : Bits.mid (wordZ u n) = u := by
  have := u.isLt
  have := n.isLt
  apply BitVec.eq_of_toNat_eq
  simp
  try omega

@[simp] theorem Bits.n_wordZ (u : Byte) (n : Nibble) : Bits.n (wordZ u n) = n := by
  have := u.isLt
  have := n.isLt
  apply BitVec.eq_of_toNat_eq
  simp
  try omega

@[simp] theorem Bits.n_wordA (op : Nibble) (nnn : Addr) : Bits.n (wordA op nnn) = nnn.extractLsb' 0 4 := by
  apply BitVec.eq_of_toNat_eq
  simp
  omega

/-- The word of two bytes as a number: big-endian (20_memory.md R54). -/
@[simp] theorem toNat_wordOfBytes (hi lo : Byte) : (wordOfBytes hi lo).toNat = hi.toNat * 256 + lo.toNat :=
  toNat_append_add hi lo

/-- The bytes of a word, put together again, are the word. -/
theorem wordOfBytes_bytesOfWord (w : Word) :
    wordOfBytes (w.extractLsb' 8 8) (w.extractLsb' 0 8) = w := by
  apply BitVec.eq_of_toNat_eq
  have := w.isLt
  rw [toNat_wordOfBytes]
  simp [Nat.shiftRight_eq_div_pow]
  omega

/-- Two bytes decode to the instruction of their word, and nothing is left. -/
@[simp] theorem decodeBytes_pair (hi lo : Byte) : decodeBytes [hi, lo] = .ok (decode (wordOfBytes hi lo), []) := rfl

/-- An opcode-table word decodes to the instruction of its word: none is refused. -/
theorem decodeTableWord_eq (nbits w : Nat) : decodeTableWord nbits w = some (decode (tableWord nbits w)) := by
  simp [decodeTableWord, bytesOfWord, wordOfBytes_bytesOfWord]

end Sys2Proof
end

