-- ==== Sys2Proof/Laws/Memory.lean ====
section
/-! SUPPORT. The laws of memory: what a read gives after a write, and that every operation keeps the canonical form. -/

namespace Sys2Proof.Machine.Memory

variable {p : Params}

/-! ### The reset contents (10_state.md R35) -/

/-- Outside the font table the reset contents are zero. -/
theorem unlisted_outside {a : Nat} (h : a < p.fontBase.val ∨ p.fontBase.val + 80 ≤ a) : unlisted p a = 0x00#8 := by
  unfold unlisted
  split
  · exact List.getD_eq_default _ _ (by rw [Vector.length_toList]; omega)
  · rfl

/-- In it they are the font's bytes. -/
theorem unlisted_font (k : Fin 80) : unlisted p (p.fontBase.val + k.val) = p.font[k.val] := by
  have := k.isLt
  rw [unlisted, if_pos (Nat.le_add_right _ _), Nat.add_sub_cancel_left, List.getD_eq_getElem _ _ (by simp)]
  simp

/-! ### The canonical form -/

/-- A list that starts at or above `low` starts at or above anything lower. -/
theorem wfFrom_mono {lo lo' : Nat} {m : Memory} (h : wfFrom p lo m = true) (hle : lo' ≤ lo) : wfFrom p lo' m = true := by
  cases m with
  | nil => rfl
  | cons p m =>
    obtain ⟨k, b⟩ := p
    simp only [wfFrom, Bool.and_eq_true, decide_eq_true_eq] at h ⊢
    exact ⟨⟨⟨hle.trans h.1.1.1, h.1.1.2⟩, h.1.2⟩, h.2⟩

/-- Below the first listed address every byte is the unlisted one. -/
theorem read_below {lo : Nat} {m : Memory} (h : wfFrom p lo m = true) {a : Nat} (ha : a < lo) : read p m a = unlisted p a := by
  induction m generalizing lo with
  | nil => rfl
  | cons p m ih =>
    obtain ⟨k, b⟩ := p
    simp only [wfFrom, Bool.and_eq_true, decide_eq_true_eq] at h
    have hne : k ≠ a := by omega
    simpa [read, hne] using ih h.2 (by omega)

/-- Inserting keeps the canonical form. -/
theorem wfFrom_insert {lo a : Nat} {m : Memory} (b : Byte) (h : wfFrom p lo m = true) (hlo : lo ≤ a)
    (ha : a < Config.memSize) : wfFrom p lo (insert p m a b) = true := by
  induction m generalizing lo with
  | nil =>
    unfold insert
    split
    · rfl
    · simp [wfFrom, *]
  | cons p m ih =>
    obtain ⟨k, c⟩ := p
    have hw := h
    simp only [wfFrom, Bool.and_eq_true, decide_eq_true_eq] at h
    obtain ⟨⟨⟨h1, h2⟩, h3⟩, h4⟩ := h
    unfold insert
    split
    · rename_i hk
      split
      · exact hw
      · simp only [wfFrom, Bool.and_eq_true, decide_eq_true_eq]
        exact ⟨⟨⟨hlo, ha⟩, ‹_›⟩, ⟨⟨hk, h2⟩, h3⟩, h4⟩
    · split
      · rename_i hk
        subst hk
        split
        · exact wfFrom_mono h4 (by omega)
        · simp only [wfFrom, Bool.and_eq_true, decide_eq_true_eq]
          exact ⟨⟨⟨hlo, ha⟩, ‹_›⟩, h4⟩
      · simp only [wfFrom, Bool.and_eq_true, decide_eq_true_eq]
        exact ⟨⟨⟨h1, h2⟩, h3⟩, ih h4 (by omega)⟩

/-- Storing a byte keeps the canonical form. -/
theorem wf_write {m : Memory} (a : Nat) (b : Byte) (h : wf p m = true) : wf p (write p m a b) = true := by
  unfold write
  split
  · exact wfFrom_insert b h (Nat.zero_le a) ‹_›
  · exact h

/-- Storing bytes keeps the canonical form. -/
theorem wf_writeBytes {m : Memory} (a : Nat) (bs : List Byte) (h : wf p m = true) : wf p (writeBytes p m a bs) = true := by
  induction bs generalizing m a with
  | nil => exact h
  | cons b bs ih => exact ih (a + 1) (wf_write a b h)

/-! ### Reads after writes -/

/-- Inserting at one address leaves every other address alone, whatever the list. -/
theorem read_insert_other (m : Memory) {a a' : Nat} (b : Byte) (hne : a' ≠ a) : read p (insert p m a b) a' = read p m a' := by
  induction m with
  | nil =>
    unfold insert
    split
    · rfl
    · simp [read, hne.symm]
  | cons p m ih =>
    obtain ⟨k, c⟩ := p
    unfold insert
    split
    · split
      · rfl
      · simp [read, hne.symm]
    · split
      · rename_i hk
        subst hk
        split <;> simp [read, hne.symm]
      · simp only [read, ih]

/-- The byte inserted is the byte read. -/
theorem read_insert_same {lo a : Nat} {m : Memory} (b : Byte) (h : wfFrom p lo m = true) : read p (insert p m a b) a = b := by
  induction m generalizing lo with
  | nil =>
    unfold insert
    split <;> simp [read, *]
  | cons p m ih =>
    obtain ⟨k, c⟩ := p
    have hw := h
    simp only [wfFrom, Bool.and_eq_true, decide_eq_true_eq] at h
    unfold insert
    split
    · rename_i hk
      split
      · rename_i hb
        have hne : k ≠ a := by omega
        simp only [read, hne, if_false]
        rw [read_below h.2 (by omega), hb]
      · simp [read]
    · split
      · rename_i hk
        subst hk
        split
        · rename_i hb
          rw [read_below h.2 (by omega), hb]
        · simp [read]
      · have hne : k ≠ a := by omega
        simpa only [read, hne, if_false] using ih h.2

/-- A store leaves every other address alone. -/
theorem read_write_other (m : Memory) {a a' : Nat} (b : Byte) (hne : a' ≠ a) : read p (write p m a b) a' = read p m a' := by
  unfold write
  split
  · exact read_insert_other m b hne
  · rfl

/-- A store is read back. -/
theorem read_write_same {m : Memory} {a : Nat} (b : Byte) (h : wf p m = true) (ha : a < Config.memSize) :
    read p (write p m a b) a = b := by
  rw [write, if_pos ha]
  exact read_insert_same b h

/-- Storing bytes leaves every address outside them alone. -/
theorem read_writeBytes_outside (m : Memory) (a : Nat) (bs : List Byte) {x : Nat} (h : x < a ∨ a + bs.length ≤ x) :
    read p (writeBytes p m a bs) x = read p m x := by
  induction bs generalizing m a with
  | nil => rfl
  | cons b bs ih =>
    simp only [List.length_cons] at h
    rw [writeBytes, ih _ _ (by omega), read_write_other m b (by omega)]

/-- Bytes stored inside memory are read back, each at its place. -/
theorem read_writeBytes_inside {m : Memory} (hw : wf p m = true) (a : Nat) (bs : List Byte) (h : a + bs.length ≤ 4096)
    (i : Nat) (hi : i < bs.length) : read p (writeBytes p m a bs) (a + i) = bs[i] := by
  induction bs generalizing m a i with
  | nil => simp at hi
  | cons b bs ih =>
    simp only [List.length_cons] at h hi
    cases i with
    | zero =>
      rw [writeBytes, read_writeBytes_outside _ _ _ (by omega)]
      exact read_write_same b hw (by simp [Config.memSize]; omega)
    | succ i =>
      have := ih (wf_write a b hw) (a + 1) (by omega) i (by omega)
      rw [writeBytes, show a + (i + 1) = a + 1 + i by omega, this]
      rfl

@[simp] theorem length_readBytes (m : Memory) (a n : Nat) : (readBytes p m a n).length = n := by
  induction n generalizing a with
  | zero => rfl
  | succ n ih => simp [readBytes, ih]

/-- Each byte of a block read is the byte at its address. -/
theorem getElem_readBytes (m : Memory) (a n i : Nat) (h : i < (readBytes p m a n).length) :
    (readBytes p m a n)[i] = read p m (a + i) := by
  induction n generalizing a i with
  | zero => simp [readBytes] at h
  | succ n ih =>
    cases i with
    | zero => rfl
    | succ i =>
      simp only [readBytes, List.length_cons] at h ⊢
      rw [List.getElem_cons_succ, ih (a + 1) i (by omega), show a + 1 + i = a + (i + 1) by omega]

/-- A block read depends on the bytes of the block only. -/
theorem readBytes_congr {m m' : Memory} (a n : Nat) (h : ∀ x, a ≤ x → x < a + n → read p m x = read p m' x) :
    readBytes p m a n = readBytes p m' a n := by
  induction n generalizing a with
  | zero => rfl
  | succ n ih =>
    simp only [readBytes]
    rw [h a (by omega) (by omega), ih (a + 1) fun x h1 h2 => h x (by omega) (by omega)]

/-- The bytes read at reset are the unlisted ones. -/
@[simp] theorem read_nil (a : Nat) : read p [] a = unlisted p a := rfl

end Sys2Proof.Machine.Memory
end

