-- ==== Sys2Proof/Laws/Screen.lean ====
section
/-! SUPPORT. The laws of the framebuffer and of the sprite's pixels: what toggling does, that a sprite names each pixel
once, and which pixels it names. -/

namespace Sys2Proof.Machine

namespace Screen

/-- Toggling a pixel inverts that pixel and no other. -/
theorem lit_toggle (fb : Screen) (p q : Pixel) : lit (toggle fb p) q = (lit fb q ^^ decide (p = q)) := by
  obtain ⟨px, py⟩ := p
  obtain ⟨qx, qy⟩ := q
  by_cases hy : py = qy
  · subst hy
    simp [lit, toggle, Fin.ext_iff, eq_comm]
  · have hv : py.val ≠ qy.val := fun e => hy (Fin.ext e)
    simp [lit, toggle, hv, hy]

/-- No cell of a blank screen is lit. -/
@[simp] theorem lit_blank (p : Pixel) : lit blank p = false := by
  simp [lit, blank]

/-- Two screens whose cells are all alike are the same. -/
theorem ext {fb fb' : Screen} (h : ∀ p, lit fb p = lit fb' p) : fb = fb' := by
  apply Vector.ext
  intro y hy
  apply BitVec.eq_of_getLsbD_eq
  intro x hx
  exact h ⟨⟨x, hx⟩, ⟨y, hy⟩⟩

/-- Drawing a list of different pixels inverts those and no other. -/
theorem lit_blit {ps : List Pixel} (hn : ps.Nodup) (fb : Screen) (q : Pixel) :
    lit (blit ps fb).1 q = (lit fb q ^^ decide (q ∈ ps)) := by
  induction ps generalizing fb with
  | nil => simp [blit]
  | cons p ps ih =>
    have hp := List.nodup_cons.mp hn
    simp only [blit, ih hp.2, lit_toggle, List.mem_cons]
    by_cases h : p = q
    · subst h; simp [hp.1]
    · simp [h, Ne.symm h]

/-- Drawing a list of different pixels reports whether one of them was lit. -/
theorem blit_collision {ps : List Pixel} (hn : ps.Nodup) (fb : Screen) : (blit ps fb).2 = ps.any (lit fb) := by
  induction ps generalizing fb with
  | nil => rfl
  | cons p ps ih =>
    have hp := List.nodup_cons.mp hn
    simp only [blit, ih hp.2, List.any_cons]
    have hany : ps.any (lit (toggle fb p)) = ps.any (lit fb) := by
      rw [Bool.eq_iff_iff, List.any_eq_true, List.any_eq_true]
      refine exists_congr fun q => and_congr_right fun hq => ?_
      have hne : p ≠ q := fun e => hp.1 (e ▸ hq)
      simp [lit_toggle, hne]
    rw [hany]

end Screen

/-- The pixels of one sprite row. -/
theorem mem_rowPixels (b : Byte) (x y : Nat) (p : Pixel) :
    p ∈ rowPixels b x y ↔
      ∃ col, col < 8 ∧ b.getLsbD (7 - col) = true ∧ p.x.val = (x + col) % 64 ∧ p.y.val = y % 32 := by
  have hcols : ∀ c, c ∈ ([0, 1, 2, 3, 4, 5, 6, 7] : List Nat) ↔ c < 8 := by
    intro c; simp; omega
  obtain ⟨px, py⟩ := p
  simp only [rowPixels, List.mem_map, List.mem_filter, hcols, Pixel.mk.injEq, Fin.ext_iff, Fin.ofNat]
  constructor
  · rintro ⟨c, ⟨hc, hb⟩, h1, h2⟩; exact ⟨c, hc, hb, h1.symm, h2.symm⟩
  · rintro ⟨c, hc, hb, h1, h2⟩; exact ⟨c, ⟨hc, hb⟩, h1.symm, h2.symm⟩

/-- The pixels of a sprite: one for each 1 bit, at the column and row reduced to the screen. -/
theorem mem_spritePixels (bs : List Byte) (x y : Nat) (p : Pixel) :
    p ∈ spritePixels bs x y ↔
      ∃ row col b, bs[row]? = some b ∧ col < 8 ∧ b.getLsbD (7 - col) = true ∧
        p.x.val = (x + col) % 64 ∧ p.y.val = (y + row) % 32 := by
  induction bs generalizing y with
  | nil => simp [spritePixels]
  | cons b bs ih =>
    simp only [spritePixels, List.mem_append, mem_rowPixels, ih]
    constructor
    · rintro (⟨col, hc, hb, h1, h2⟩ | ⟨row, col, b', hr, hc, hb, h1, h2⟩)
      · exact ⟨0, col, b, by simp, hc, hb, h1, by simpa using h2⟩
      · exact ⟨row + 1, col, b', by simpa using hr, hc, hb, h1, by rw [h2]; congr 1; omega⟩
    · rintro ⟨row, col, b', hr, hc, hb, h1, h2⟩
      cases row with
      | zero =>
        have hbb : b = b' := by simpa using hr
        exact .inl ⟨col, hc, hbb ▸ hb, h1, by simpa using h2⟩
      | succ row => exact .inr ⟨row, col, b', by simpa using hr, hc, hb, h1, by rw [h2]; congr 1; omega⟩

/-- The pixels of one sprite row are different. -/
theorem nodup_rowPixels (b : Byte) (x y : Nat) : (rowPixels b x y).Nodup := by
  refine List.Nodup.map_on ?_ (List.Nodup.filter _ (by decide))
  intro c hc d hd h
  simp only [List.mem_filter, List.mem_cons, List.not_mem_nil, or_false] at hc hd
  have := congrArg (fun p : Pixel => p.x.val) h
  simp only [Fin.ofNat] at this
  omega

/-- The pixels of a sprite of at most 32 rows are different: no cell is toggled twice (43_display.md R143). -/
theorem nodup_spritePixels (bs : List Byte) (x y : Nat) (h : bs.length ≤ 32) : (spritePixels bs x y).Nodup := by
  induction bs generalizing y with
  | nil => exact List.nodup_nil
  | cons b bs ih =>
    simp only [List.length_cons] at h
    refine List.Nodup.append (nodup_rowPixels b x y) (ih (y + 1) (by omega)) ?_
    intro p hp hq
    obtain ⟨c, hc, -, -, h2⟩ := (mem_rowPixels b x y p).mp hp
    obtain ⟨row, d, b', hr, hd, -, -, h4⟩ := (mem_spritePixels bs x (y + 1) p).mp hq
    have hrow : row < bs.length := (List.getElem?_eq_some_iff.mp hr).1
    omega

/-- The pixels of `Dxyn` are different. -/
theorem nodup_drwPixels (x y : Reg) (n : Nibble) (s : State) : (drwPixels x y n s).Nodup := by
  refine nodup_spritePixels _ _ _ ?_
  have := n.isLt
  rw [Memory.length_readBytes]
  omega

end Sys2Proof.Machine
end

