-- ==== Sys2Proof/Laws/State.lean ====
section
/-! SUPPORT. One lemma per field per update of State, each true by rfl, so that no later proof unfolds a record update;
and what a register reads after each update. -/

namespace Sys2Proof.Machine.State

/-! `setV` -/

@[simp] theorem setV_params (s : State) (x : Reg) (b : Byte) : (s.setV x b).params = s.params := rfl
@[simp] theorem setV_index (s : State) (x : Reg) (b : Byte) : (s.setV x b).index = s.index := rfl
@[simp] theorem setV_pc (s : State) (x : Reg) (b : Byte) : (s.setV x b).pc = s.pc := rfl
@[simp] theorem setV_stack (s : State) (x : Reg) (b : Byte) : (s.setV x b).stack = s.stack := rfl
@[simp] theorem setV_sp (s : State) (x : Reg) (b : Byte) : (s.setV x b).sp = s.sp := rfl
@[simp] theorem setV_dt (s : State) (x : Reg) (b : Byte) : (s.setV x b).dt = s.dt := rfl
@[simp] theorem setV_st (s : State) (x : Reg) (b : Byte) : (s.setV x b).st = s.st := rfl
@[simp] theorem setV_keys (s : State) (x : Reg) (b : Byte) : (s.setV x b).keys = s.keys := rfl
@[simp] theorem setV_fb (s : State) (x : Reg) (b : Byte) : (s.setV x b).fb = s.fb := rfl
@[simp] theorem setV_mem (s : State) (x : Reg) (b : Byte) : (s.setV x b).mem = s.mem := rfl
@[simp] theorem setV_fault (s : State) (x : Reg) (b : Byte) : (s.setV x b).fault = s.fault := rfl
@[simp] theorem setV_rndIn (s : State) (x : Reg) (b : Byte) : (s.setV x b).rndIn = s.rndIn := rfl
@[simp] theorem setV_draws (s : State) (x : Reg) (b : Byte) : (s.setV x b).draws = s.draws := rfl
@[simp] theorem setV_v (s : State) (x : Reg) (b : Byte) : (s.setV x b).v = s.v.set x.val b := rfl

/-! `setIndex` -/

@[simp] theorem setIndex_params (s : State) (w : Word) : (s.setIndex w).params = s.params := rfl
@[simp] theorem setIndex_index (s : State) (w : Word) : (s.setIndex w).index = w := rfl
@[simp] theorem setIndex_pc (s : State) (w : Word) : (s.setIndex w).pc = s.pc := rfl
@[simp] theorem setIndex_stack (s : State) (w : Word) : (s.setIndex w).stack = s.stack := rfl
@[simp] theorem setIndex_sp (s : State) (w : Word) : (s.setIndex w).sp = s.sp := rfl
@[simp] theorem setIndex_dt (s : State) (w : Word) : (s.setIndex w).dt = s.dt := rfl
@[simp] theorem setIndex_st (s : State) (w : Word) : (s.setIndex w).st = s.st := rfl
@[simp] theorem setIndex_keys (s : State) (w : Word) : (s.setIndex w).keys = s.keys := rfl
@[simp] theorem setIndex_fb (s : State) (w : Word) : (s.setIndex w).fb = s.fb := rfl
@[simp] theorem setIndex_mem (s : State) (w : Word) : (s.setIndex w).mem = s.mem := rfl
@[simp] theorem setIndex_fault (s : State) (w : Word) : (s.setIndex w).fault = s.fault := rfl
@[simp] theorem setIndex_rndIn (s : State) (w : Word) : (s.setIndex w).rndIn = s.rndIn := rfl
@[simp] theorem setIndex_draws (s : State) (w : Word) : (s.setIndex w).draws = s.draws := rfl
@[simp] theorem setIndex_v (s : State) (w : Word) : (s.setIndex w).v = s.v := rfl
@[simp] theorem setIndex_getV (s : State) (w : Word) (r : Reg) : (s.setIndex w).getV r = s.getV r := rfl

/-! `setPc` -/

@[simp] theorem setPc_params (s : State) (w : Word) : (s.setPc w).params = s.params := rfl
@[simp] theorem setPc_index (s : State) (w : Word) : (s.setPc w).index = s.index := rfl
@[simp] theorem setPc_pc (s : State) (w : Word) : (s.setPc w).pc = w := rfl
@[simp] theorem setPc_stack (s : State) (w : Word) : (s.setPc w).stack = s.stack := rfl
@[simp] theorem setPc_sp (s : State) (w : Word) : (s.setPc w).sp = s.sp := rfl
@[simp] theorem setPc_dt (s : State) (w : Word) : (s.setPc w).dt = s.dt := rfl
@[simp] theorem setPc_st (s : State) (w : Word) : (s.setPc w).st = s.st := rfl
@[simp] theorem setPc_keys (s : State) (w : Word) : (s.setPc w).keys = s.keys := rfl
@[simp] theorem setPc_fb (s : State) (w : Word) : (s.setPc w).fb = s.fb := rfl
@[simp] theorem setPc_mem (s : State) (w : Word) : (s.setPc w).mem = s.mem := rfl
@[simp] theorem setPc_fault (s : State) (w : Word) : (s.setPc w).fault = s.fault := rfl
@[simp] theorem setPc_rndIn (s : State) (w : Word) : (s.setPc w).rndIn = s.rndIn := rfl
@[simp] theorem setPc_draws (s : State) (w : Word) : (s.setPc w).draws = s.draws := rfl
@[simp] theorem setPc_v (s : State) (w : Word) : (s.setPc w).v = s.v := rfl
@[simp] theorem setPc_getV (s : State) (w : Word) (r : Reg) : (s.setPc w).getV r = s.getV r := rfl

/-! `advance` -/

@[simp] theorem advance_params (s : State) : (s.advance).params = s.params := rfl
@[simp] theorem advance_index (s : State) : (s.advance).index = s.index := rfl
@[simp] theorem advance_pc (s : State) : (s.advance).pc = s.pc + 2#16 := rfl
@[simp] theorem advance_stack (s : State) : (s.advance).stack = s.stack := rfl
@[simp] theorem advance_sp (s : State) : (s.advance).sp = s.sp := rfl
@[simp] theorem advance_dt (s : State) : (s.advance).dt = s.dt := rfl
@[simp] theorem advance_st (s : State) : (s.advance).st = s.st := rfl
@[simp] theorem advance_keys (s : State) : (s.advance).keys = s.keys := rfl
@[simp] theorem advance_fb (s : State) : (s.advance).fb = s.fb := rfl
@[simp] theorem advance_mem (s : State) : (s.advance).mem = s.mem := rfl
@[simp] theorem advance_fault (s : State) : (s.advance).fault = s.fault := rfl
@[simp] theorem advance_rndIn (s : State) : (s.advance).rndIn = s.rndIn := rfl
@[simp] theorem advance_draws (s : State) : (s.advance).draws = s.draws := rfl
@[simp] theorem advance_v (s : State) : (s.advance).v = s.v := rfl
@[simp] theorem advance_getV (s : State) (r : Reg) : (s.advance).getV r = s.getV r := rfl

/-! `skip` -/

@[simp] theorem skip_params (s : State) : (s.skip).params = s.params := rfl
@[simp] theorem skip_index (s : State) : (s.skip).index = s.index := rfl
@[simp] theorem skip_pc (s : State) : (s.skip).pc = s.pc + 2#16 + 2#16 := rfl
@[simp] theorem skip_stack (s : State) : (s.skip).stack = s.stack := rfl
@[simp] theorem skip_sp (s : State) : (s.skip).sp = s.sp := rfl
@[simp] theorem skip_dt (s : State) : (s.skip).dt = s.dt := rfl
@[simp] theorem skip_st (s : State) : (s.skip).st = s.st := rfl
@[simp] theorem skip_keys (s : State) : (s.skip).keys = s.keys := rfl
@[simp] theorem skip_fb (s : State) : (s.skip).fb = s.fb := rfl
@[simp] theorem skip_mem (s : State) : (s.skip).mem = s.mem := rfl
@[simp] theorem skip_fault (s : State) : (s.skip).fault = s.fault := rfl
@[simp] theorem skip_rndIn (s : State) : (s.skip).rndIn = s.rndIn := rfl
@[simp] theorem skip_draws (s : State) : (s.skip).draws = s.draws := rfl
@[simp] theorem skip_v (s : State) : (s.skip).v = s.v := rfl
@[simp] theorem skip_getV (s : State) (r : Reg) : (s.skip).getV r = s.getV r := rfl

/-! `storeBytes` -/

@[simp] theorem storeBytes_params (s : State) (a : Nat) (bs : List Byte) : (s.storeBytes a bs).params = s.params := rfl
@[simp] theorem storeBytes_index (s : State) (a : Nat) (bs : List Byte) : (s.storeBytes a bs).index = s.index := rfl
@[simp] theorem storeBytes_pc (s : State) (a : Nat) (bs : List Byte) : (s.storeBytes a bs).pc = s.pc := rfl
@[simp] theorem storeBytes_stack (s : State) (a : Nat) (bs : List Byte) : (s.storeBytes a bs).stack = s.stack := rfl
@[simp] theorem storeBytes_sp (s : State) (a : Nat) (bs : List Byte) : (s.storeBytes a bs).sp = s.sp := rfl
@[simp] theorem storeBytes_dt (s : State) (a : Nat) (bs : List Byte) : (s.storeBytes a bs).dt = s.dt := rfl
@[simp] theorem storeBytes_st (s : State) (a : Nat) (bs : List Byte) : (s.storeBytes a bs).st = s.st := rfl
@[simp] theorem storeBytes_keys (s : State) (a : Nat) (bs : List Byte) : (s.storeBytes a bs).keys = s.keys := rfl
@[simp] theorem storeBytes_fb (s : State) (a : Nat) (bs : List Byte) : (s.storeBytes a bs).fb = s.fb := rfl
@[simp] theorem storeBytes_mem (s : State) (a : Nat) (bs : List Byte) : (s.storeBytes a bs).mem = Memory.writeBytes s.params s.mem a bs := rfl
@[simp] theorem storeBytes_fault (s : State) (a : Nat) (bs : List Byte) : (s.storeBytes a bs).fault = s.fault := rfl
@[simp] theorem storeBytes_rndIn (s : State) (a : Nat) (bs : List Byte) : (s.storeBytes a bs).rndIn = s.rndIn := rfl
@[simp] theorem storeBytes_draws (s : State) (a : Nat) (bs : List Byte) : (s.storeBytes a bs).draws = s.draws := rfl
@[simp] theorem storeBytes_v (s : State) (a : Nat) (bs : List Byte) : (s.storeBytes a bs).v = s.v := rfl
@[simp] theorem storeBytes_getV (s : State) (a : Nat) (bs : List Byte) (r : Reg) : (s.storeBytes a bs).getV r = s.getV r := rfl

/-! `setFb` -/

@[simp] theorem setFb_params (s : State) (fb : Vector (BitVec 64) 32) : (s.setFb fb).params = s.params := rfl
@[simp] theorem setFb_index (s : State) (fb : Vector (BitVec 64) 32) : (s.setFb fb).index = s.index := rfl
@[simp] theorem setFb_pc (s : State) (fb : Vector (BitVec 64) 32) : (s.setFb fb).pc = s.pc := rfl
@[simp] theorem setFb_stack (s : State) (fb : Vector (BitVec 64) 32) : (s.setFb fb).stack = s.stack := rfl
@[simp] theorem setFb_sp (s : State) (fb : Vector (BitVec 64) 32) : (s.setFb fb).sp = s.sp := rfl
@[simp] theorem setFb_dt (s : State) (fb : Vector (BitVec 64) 32) : (s.setFb fb).dt = s.dt := rfl
@[simp] theorem setFb_st (s : State) (fb : Vector (BitVec 64) 32) : (s.setFb fb).st = s.st := rfl
@[simp] theorem setFb_keys (s : State) (fb : Vector (BitVec 64) 32) : (s.setFb fb).keys = s.keys := rfl
@[simp] theorem setFb_fb (s : State) (fb : Vector (BitVec 64) 32) : (s.setFb fb).fb = fb := rfl
@[simp] theorem setFb_mem (s : State) (fb : Vector (BitVec 64) 32) : (s.setFb fb).mem = s.mem := rfl
@[simp] theorem setFb_fault (s : State) (fb : Vector (BitVec 64) 32) : (s.setFb fb).fault = s.fault := rfl
@[simp] theorem setFb_rndIn (s : State) (fb : Vector (BitVec 64) 32) : (s.setFb fb).rndIn = s.rndIn := rfl
@[simp] theorem setFb_draws (s : State) (fb : Vector (BitVec 64) 32) : (s.setFb fb).draws = s.draws := rfl
@[simp] theorem setFb_v (s : State) (fb : Vector (BitVec 64) 32) : (s.setFb fb).v = s.v := rfl
@[simp] theorem setFb_getV (s : State) (fb : Vector (BitVec 64) 32) (r : Reg) : (s.setFb fb).getV r = s.getV r := rfl

/-! `setDt` -/

@[simp] theorem setDt_params (s : State) (b : Byte) : (s.setDt b).params = s.params := rfl
@[simp] theorem setDt_index (s : State) (b : Byte) : (s.setDt b).index = s.index := rfl
@[simp] theorem setDt_pc (s : State) (b : Byte) : (s.setDt b).pc = s.pc := rfl
@[simp] theorem setDt_stack (s : State) (b : Byte) : (s.setDt b).stack = s.stack := rfl
@[simp] theorem setDt_sp (s : State) (b : Byte) : (s.setDt b).sp = s.sp := rfl
@[simp] theorem setDt_dt (s : State) (b : Byte) : (s.setDt b).dt = b := rfl
@[simp] theorem setDt_st (s : State) (b : Byte) : (s.setDt b).st = s.st := rfl
@[simp] theorem setDt_keys (s : State) (b : Byte) : (s.setDt b).keys = s.keys := rfl
@[simp] theorem setDt_fb (s : State) (b : Byte) : (s.setDt b).fb = s.fb := rfl
@[simp] theorem setDt_mem (s : State) (b : Byte) : (s.setDt b).mem = s.mem := rfl
@[simp] theorem setDt_fault (s : State) (b : Byte) : (s.setDt b).fault = s.fault := rfl
@[simp] theorem setDt_rndIn (s : State) (b : Byte) : (s.setDt b).rndIn = s.rndIn := rfl
@[simp] theorem setDt_draws (s : State) (b : Byte) : (s.setDt b).draws = s.draws := rfl
@[simp] theorem setDt_v (s : State) (b : Byte) : (s.setDt b).v = s.v := rfl
@[simp] theorem setDt_getV (s : State) (b : Byte) (r : Reg) : (s.setDt b).getV r = s.getV r := rfl

/-! `setSt` -/

@[simp] theorem setSt_params (s : State) (b : Byte) : (s.setSt b).params = s.params := rfl
@[simp] theorem setSt_index (s : State) (b : Byte) : (s.setSt b).index = s.index := rfl
@[simp] theorem setSt_pc (s : State) (b : Byte) : (s.setSt b).pc = s.pc := rfl
@[simp] theorem setSt_stack (s : State) (b : Byte) : (s.setSt b).stack = s.stack := rfl
@[simp] theorem setSt_sp (s : State) (b : Byte) : (s.setSt b).sp = s.sp := rfl
@[simp] theorem setSt_dt (s : State) (b : Byte) : (s.setSt b).dt = s.dt := rfl
@[simp] theorem setSt_st (s : State) (b : Byte) : (s.setSt b).st = b := rfl
@[simp] theorem setSt_keys (s : State) (b : Byte) : (s.setSt b).keys = s.keys := rfl
@[simp] theorem setSt_fb (s : State) (b : Byte) : (s.setSt b).fb = s.fb := rfl
@[simp] theorem setSt_mem (s : State) (b : Byte) : (s.setSt b).mem = s.mem := rfl
@[simp] theorem setSt_fault (s : State) (b : Byte) : (s.setSt b).fault = s.fault := rfl
@[simp] theorem setSt_rndIn (s : State) (b : Byte) : (s.setSt b).rndIn = s.rndIn := rfl
@[simp] theorem setSt_draws (s : State) (b : Byte) : (s.setSt b).draws = s.draws := rfl
@[simp] theorem setSt_v (s : State) (b : Byte) : (s.setSt b).v = s.v := rfl
@[simp] theorem setSt_getV (s : State) (b : Byte) (r : Reg) : (s.setSt b).getV r = s.getV r := rfl

/-! `tick` -/

@[simp] theorem tick_params (s : State) : (s.tick).params = s.params := rfl
@[simp] theorem tick_index (s : State) : (s.tick).index = s.index := rfl
@[simp] theorem tick_pc (s : State) : (s.tick).pc = s.pc := rfl
@[simp] theorem tick_stack (s : State) : (s.tick).stack = s.stack := rfl
@[simp] theorem tick_sp (s : State) : (s.tick).sp = s.sp := rfl
@[simp] theorem tick_dt (s : State) : (s.tick).dt = tickDown s.dt := rfl
@[simp] theorem tick_st (s : State) : (s.tick).st = tickDown s.st := rfl
@[simp] theorem tick_keys (s : State) : (s.tick).keys = s.keys := rfl
@[simp] theorem tick_fb (s : State) : (s.tick).fb = s.fb := rfl
@[simp] theorem tick_mem (s : State) : (s.tick).mem = s.mem := rfl
@[simp] theorem tick_fault (s : State) : (s.tick).fault = s.fault := rfl
@[simp] theorem tick_rndIn (s : State) : (s.tick).rndIn = s.rndIn := rfl
@[simp] theorem tick_draws (s : State) : (s.tick).draws = s.draws := rfl
@[simp] theorem tick_v (s : State) : (s.tick).v = s.v := rfl
@[simp] theorem tick_getV (s : State) (r : Reg) : (s.tick).getV r = s.getV r := rfl

/-! `latch` -/

@[simp] theorem latch_params (s : State) (c : Cause) (n : Nat) : (s.latch c n).params = s.params := rfl
@[simp] theorem latch_index (s : State) (c : Cause) (n : Nat) : (s.latch c n).index = s.index := rfl
@[simp] theorem latch_pc (s : State) (c : Cause) (n : Nat) : (s.latch c n).pc = s.pc := rfl
@[simp] theorem latch_stack (s : State) (c : Cause) (n : Nat) : (s.latch c n).stack = s.stack := rfl
@[simp] theorem latch_sp (s : State) (c : Cause) (n : Nat) : (s.latch c n).sp = s.sp := rfl
@[simp] theorem latch_dt (s : State) (c : Cause) (n : Nat) : (s.latch c n).dt = s.dt := rfl
@[simp] theorem latch_st (s : State) (c : Cause) (n : Nat) : (s.latch c n).st = s.st := rfl
@[simp] theorem latch_keys (s : State) (c : Cause) (n : Nat) : (s.latch c n).keys = s.keys := rfl
@[simp] theorem latch_fb (s : State) (c : Cause) (n : Nat) : (s.latch c n).fb = s.fb := rfl
@[simp] theorem latch_mem (s : State) (c : Cause) (n : Nat) : (s.latch c n).mem = s.mem := rfl
@[simp] theorem latch_fault (s : State) (c : Cause) (n : Nat) : (s.latch c n).fault = some { cause := c, pc := s.pc, info := n } := rfl
@[simp] theorem latch_rndIn (s : State) (c : Cause) (n : Nat) : (s.latch c n).rndIn = s.rndIn := rfl
@[simp] theorem latch_draws (s : State) (c : Cause) (n : Nat) : (s.latch c n).draws = s.draws := rfl
@[simp] theorem latch_v (s : State) (c : Cause) (n : Nat) : (s.latch c n).v = s.v := rfl
@[simp] theorem latch_getV (s : State) (c : Cause) (n : Nat) (r : Reg) : (s.latch c n).getV r = s.getV r := rfl

/-! `push` -/

@[simp] theorem push_params (s : State) (h : s.sp.val < 16) (w : Word) : (s.push h w).params = s.params := rfl
@[simp] theorem push_index (s : State) (h : s.sp.val < 16) (w : Word) : (s.push h w).index = s.index := rfl
@[simp] theorem push_pc (s : State) (h : s.sp.val < 16) (w : Word) : (s.push h w).pc = s.pc := rfl
@[simp] theorem push_stack (s : State) (h : s.sp.val < 16) (w : Word) : (s.push h w).stack = s.stack.set s.sp.val w := rfl
@[simp] theorem push_sp (s : State) (h : s.sp.val < 16) (w : Word) : (s.push h w).sp = ⟨s.sp.val + 1, Nat.succ_lt_succ h⟩ := rfl
@[simp] theorem push_dt (s : State) (h : s.sp.val < 16) (w : Word) : (s.push h w).dt = s.dt := rfl
@[simp] theorem push_st (s : State) (h : s.sp.val < 16) (w : Word) : (s.push h w).st = s.st := rfl
@[simp] theorem push_keys (s : State) (h : s.sp.val < 16) (w : Word) : (s.push h w).keys = s.keys := rfl
@[simp] theorem push_fb (s : State) (h : s.sp.val < 16) (w : Word) : (s.push h w).fb = s.fb := rfl
@[simp] theorem push_mem (s : State) (h : s.sp.val < 16) (w : Word) : (s.push h w).mem = s.mem := rfl
@[simp] theorem push_fault (s : State) (h : s.sp.val < 16) (w : Word) : (s.push h w).fault = s.fault := rfl
@[simp] theorem push_rndIn (s : State) (h : s.sp.val < 16) (w : Word) : (s.push h w).rndIn = s.rndIn := rfl
@[simp] theorem push_draws (s : State) (h : s.sp.val < 16) (w : Word) : (s.push h w).draws = s.draws := rfl
@[simp] theorem push_v (s : State) (h : s.sp.val < 16) (w : Word) : (s.push h w).v = s.v := rfl
@[simp] theorem push_getV (s : State) (h : s.sp.val < 16) (w : Word) (r : Reg) : (s.push h w).getV r = s.getV r := rfl

/-! `dropTop` -/

@[simp] theorem dropTop_params (s : State) : (s.dropTop).params = s.params := rfl
@[simp] theorem dropTop_index (s : State) : (s.dropTop).index = s.index := rfl
@[simp] theorem dropTop_pc (s : State) : (s.dropTop).pc = s.pc := rfl
@[simp] theorem dropTop_stack (s : State) : (s.dropTop).stack = s.stack := rfl
@[simp] theorem dropTop_sp (s : State) : (s.dropTop).sp = ⟨s.sp.val - 1, Nat.lt_of_le_of_lt (Nat.sub_le _ _) s.sp.isLt⟩ := rfl
@[simp] theorem dropTop_dt (s : State) : (s.dropTop).dt = s.dt := rfl
@[simp] theorem dropTop_st (s : State) : (s.dropTop).st = s.st := rfl
@[simp] theorem dropTop_keys (s : State) : (s.dropTop).keys = s.keys := rfl
@[simp] theorem dropTop_fb (s : State) : (s.dropTop).fb = s.fb := rfl
@[simp] theorem dropTop_mem (s : State) : (s.dropTop).mem = s.mem := rfl
@[simp] theorem dropTop_fault (s : State) : (s.dropTop).fault = s.fault := rfl
@[simp] theorem dropTop_rndIn (s : State) : (s.dropTop).rndIn = s.rndIn := rfl
@[simp] theorem dropTop_draws (s : State) : (s.dropTop).draws = s.draws := rfl
@[simp] theorem dropTop_v (s : State) : (s.dropTop).v = s.v := rfl
@[simp] theorem dropTop_getV (s : State) (r : Reg) : (s.dropTop).getV r = s.getV r := rfl

/-! `consumeRnd` -/

@[simp] theorem consumeRnd_params (s : State) : (s.consumeRnd).params = s.params := rfl
@[simp] theorem consumeRnd_index (s : State) : (s.consumeRnd).index = s.index := rfl
@[simp] theorem consumeRnd_pc (s : State) : (s.consumeRnd).pc = s.pc := rfl
@[simp] theorem consumeRnd_stack (s : State) : (s.consumeRnd).stack = s.stack := rfl
@[simp] theorem consumeRnd_sp (s : State) : (s.consumeRnd).sp = s.sp := rfl
@[simp] theorem consumeRnd_dt (s : State) : (s.consumeRnd).dt = s.dt := rfl
@[simp] theorem consumeRnd_st (s : State) : (s.consumeRnd).st = s.st := rfl
@[simp] theorem consumeRnd_keys (s : State) : (s.consumeRnd).keys = s.keys := rfl
@[simp] theorem consumeRnd_fb (s : State) : (s.consumeRnd).fb = s.fb := rfl
@[simp] theorem consumeRnd_mem (s : State) : (s.consumeRnd).mem = s.mem := rfl
@[simp] theorem consumeRnd_fault (s : State) : (s.consumeRnd).fault = s.fault := rfl
@[simp] theorem consumeRnd_rndIn (s : State) : (s.consumeRnd).rndIn = s.rndIn.tail := rfl
@[simp] theorem consumeRnd_draws (s : State) : (s.consumeRnd).draws = s.draws + 1 := rfl
@[simp] theorem consumeRnd_v (s : State) : (s.consumeRnd).v = s.v := rfl
@[simp] theorem consumeRnd_getV (s : State) (r : Reg) : (s.consumeRnd).getV r = s.getV r := rfl

/-! `setFlagThenV` -/

@[simp] theorem setFlagThenV_params (s : State) (x : Reg) (f : Bool) (b : Byte) : (s.setFlagThenV x f b).params = s.params := rfl
@[simp] theorem setFlagThenV_index (s : State) (x : Reg) (f : Bool) (b : Byte) : (s.setFlagThenV x f b).index = s.index := rfl
@[simp] theorem setFlagThenV_pc (s : State) (x : Reg) (f : Bool) (b : Byte) : (s.setFlagThenV x f b).pc = s.pc := rfl
@[simp] theorem setFlagThenV_stack (s : State) (x : Reg) (f : Bool) (b : Byte) : (s.setFlagThenV x f b).stack = s.stack := rfl
@[simp] theorem setFlagThenV_sp (s : State) (x : Reg) (f : Bool) (b : Byte) : (s.setFlagThenV x f b).sp = s.sp := rfl
@[simp] theorem setFlagThenV_dt (s : State) (x : Reg) (f : Bool) (b : Byte) : (s.setFlagThenV x f b).dt = s.dt := rfl
@[simp] theorem setFlagThenV_st (s : State) (x : Reg) (f : Bool) (b : Byte) : (s.setFlagThenV x f b).st = s.st := rfl
@[simp] theorem setFlagThenV_keys (s : State) (x : Reg) (f : Bool) (b : Byte) : (s.setFlagThenV x f b).keys = s.keys := rfl
@[simp] theorem setFlagThenV_fb (s : State) (x : Reg) (f : Bool) (b : Byte) : (s.setFlagThenV x f b).fb = s.fb := rfl
@[simp] theorem setFlagThenV_mem (s : State) (x : Reg) (f : Bool) (b : Byte) : (s.setFlagThenV x f b).mem = s.mem := rfl
@[simp] theorem setFlagThenV_fault (s : State) (x : Reg) (f : Bool) (b : Byte) : (s.setFlagThenV x f b).fault = s.fault := rfl
@[simp] theorem setFlagThenV_rndIn (s : State) (x : Reg) (f : Bool) (b : Byte) : (s.setFlagThenV x f b).rndIn = s.rndIn := rfl
@[simp] theorem setFlagThenV_draws (s : State) (x : Reg) (f : Bool) (b : Byte) : (s.setFlagThenV x f b).draws = s.draws := rfl

/-! `giveRnd` -/

@[simp] theorem giveRnd_params (s : State) (b : Byte) : (s.giveRnd b).params = s.params := rfl
@[simp] theorem giveRnd_index (s : State) (b : Byte) : (s.giveRnd b).index = s.index := rfl
@[simp] theorem giveRnd_pc (s : State) (b : Byte) : (s.giveRnd b).pc = s.pc := rfl
@[simp] theorem giveRnd_stack (s : State) (b : Byte) : (s.giveRnd b).stack = s.stack := rfl
@[simp] theorem giveRnd_sp (s : State) (b : Byte) : (s.giveRnd b).sp = s.sp := rfl
@[simp] theorem giveRnd_dt (s : State) (b : Byte) : (s.giveRnd b).dt = s.dt := rfl
@[simp] theorem giveRnd_st (s : State) (b : Byte) : (s.giveRnd b).st = s.st := rfl
@[simp] theorem giveRnd_keys (s : State) (b : Byte) : (s.giveRnd b).keys = s.keys := rfl
@[simp] theorem giveRnd_fb (s : State) (b : Byte) : (s.giveRnd b).fb = s.fb := rfl
@[simp] theorem giveRnd_mem (s : State) (b : Byte) : (s.giveRnd b).mem = s.mem := rfl
@[simp] theorem giveRnd_fault (s : State) (b : Byte) : (s.giveRnd b).fault = s.fault := rfl
@[simp] theorem giveRnd_rndIn (s : State) (b : Byte) : (s.giveRnd b).rndIn = [b] := rfl
@[simp] theorem giveRnd_draws (s : State) (b : Byte) : (s.giveRnd b).draws = s.draws := rfl
@[simp] theorem giveRnd_v (s : State) (b : Byte) : (s.giveRnd b).v = s.v := rfl
@[simp] theorem giveRnd_getV (s : State) (b : Byte) (r : Reg) : (s.giveRnd b).getV r = s.getV r := rfl

/-! `restoreRnd` -/

@[simp] theorem restoreRnd_params (s : State) (u : State) : (s.restoreRnd u).params = s.params := rfl
@[simp] theorem restoreRnd_index (s : State) (u : State) : (s.restoreRnd u).index = s.index := rfl
@[simp] theorem restoreRnd_pc (s : State) (u : State) : (s.restoreRnd u).pc = s.pc := rfl
@[simp] theorem restoreRnd_stack (s : State) (u : State) : (s.restoreRnd u).stack = s.stack := rfl
@[simp] theorem restoreRnd_sp (s : State) (u : State) : (s.restoreRnd u).sp = s.sp := rfl
@[simp] theorem restoreRnd_dt (s : State) (u : State) : (s.restoreRnd u).dt = s.dt := rfl
@[simp] theorem restoreRnd_st (s : State) (u : State) : (s.restoreRnd u).st = s.st := rfl
@[simp] theorem restoreRnd_keys (s : State) (u : State) : (s.restoreRnd u).keys = s.keys := rfl
@[simp] theorem restoreRnd_fb (s : State) (u : State) : (s.restoreRnd u).fb = s.fb := rfl
@[simp] theorem restoreRnd_mem (s : State) (u : State) : (s.restoreRnd u).mem = s.mem := rfl
@[simp] theorem restoreRnd_fault (s : State) (u : State) : (s.restoreRnd u).fault = s.fault := rfl
@[simp] theorem restoreRnd_rndIn (s : State) (u : State) : (s.restoreRnd u).rndIn = u.rndIn := rfl
@[simp] theorem restoreRnd_draws (s : State) (u : State) : (s.restoreRnd u).draws = s.draws := rfl
@[simp] theorem restoreRnd_v (s : State) (u : State) : (s.restoreRnd u).v = s.v := rfl
@[simp] theorem restoreRnd_getV (s : State) (u : State) (r : Reg) : (s.restoreRnd u).getV r = s.getV r := rfl

/-! `setKeys` -/

@[simp] theorem setKeys_params (s : State) (ks : Vector Bool 16) : (s.setKeys ks).params = s.params := rfl
@[simp] theorem setKeys_index (s : State) (ks : Vector Bool 16) : (s.setKeys ks).index = s.index := rfl
@[simp] theorem setKeys_pc (s : State) (ks : Vector Bool 16) : (s.setKeys ks).pc = s.pc := rfl
@[simp] theorem setKeys_stack (s : State) (ks : Vector Bool 16) : (s.setKeys ks).stack = s.stack := rfl
@[simp] theorem setKeys_sp (s : State) (ks : Vector Bool 16) : (s.setKeys ks).sp = s.sp := rfl
@[simp] theorem setKeys_dt (s : State) (ks : Vector Bool 16) : (s.setKeys ks).dt = s.dt := rfl
@[simp] theorem setKeys_st (s : State) (ks : Vector Bool 16) : (s.setKeys ks).st = s.st := rfl
@[simp] theorem setKeys_keys (s : State) (ks : Vector Bool 16) : (s.setKeys ks).keys = ks := rfl
@[simp] theorem setKeys_fb (s : State) (ks : Vector Bool 16) : (s.setKeys ks).fb = s.fb := rfl
@[simp] theorem setKeys_mem (s : State) (ks : Vector Bool 16) : (s.setKeys ks).mem = s.mem := rfl
@[simp] theorem setKeys_fault (s : State) (ks : Vector Bool 16) : (s.setKeys ks).fault = s.fault := rfl
@[simp] theorem setKeys_rndIn (s : State) (ks : Vector Bool 16) : (s.setKeys ks).rndIn = s.rndIn := rfl
@[simp] theorem setKeys_draws (s : State) (ks : Vector Bool 16) : (s.setKeys ks).draws = s.draws := rfl
@[simp] theorem setKeys_v (s : State) (ks : Vector Bool 16) : (s.setKeys ks).v = s.v := rfl
@[simp] theorem setKeys_getV (s : State) (ks : Vector Bool 16) (r : Reg) : (s.setKeys ks).getV r = s.getV r := rfl

/-! `lineUpRnd` -/

@[simp] theorem lineUpRnd_params (s : State) (bs : List Byte) : (s.lineUpRnd bs).params = s.params := rfl
@[simp] theorem lineUpRnd_index (s : State) (bs : List Byte) : (s.lineUpRnd bs).index = s.index := rfl
@[simp] theorem lineUpRnd_pc (s : State) (bs : List Byte) : (s.lineUpRnd bs).pc = s.pc := rfl
@[simp] theorem lineUpRnd_stack (s : State) (bs : List Byte) : (s.lineUpRnd bs).stack = s.stack := rfl
@[simp] theorem lineUpRnd_sp (s : State) (bs : List Byte) : (s.lineUpRnd bs).sp = s.sp := rfl
@[simp] theorem lineUpRnd_dt (s : State) (bs : List Byte) : (s.lineUpRnd bs).dt = s.dt := rfl
@[simp] theorem lineUpRnd_st (s : State) (bs : List Byte) : (s.lineUpRnd bs).st = s.st := rfl
@[simp] theorem lineUpRnd_keys (s : State) (bs : List Byte) : (s.lineUpRnd bs).keys = s.keys := rfl
@[simp] theorem lineUpRnd_fb (s : State) (bs : List Byte) : (s.lineUpRnd bs).fb = s.fb := rfl
@[simp] theorem lineUpRnd_mem (s : State) (bs : List Byte) : (s.lineUpRnd bs).mem = s.mem := rfl
@[simp] theorem lineUpRnd_fault (s : State) (bs : List Byte) : (s.lineUpRnd bs).fault = s.fault := rfl
@[simp] theorem lineUpRnd_rndIn (s : State) (bs : List Byte) : (s.lineUpRnd bs).rndIn = bs := rfl
@[simp] theorem lineUpRnd_draws (s : State) (bs : List Byte) : (s.lineUpRnd bs).draws = s.draws := rfl
@[simp] theorem lineUpRnd_v (s : State) (bs : List Byte) : (s.lineUpRnd bs).v = s.v := rfl
@[simp] theorem lineUpRnd_getV (s : State) (bs : List Byte) (r : Reg) : (s.lineUpRnd bs).getV r = s.getV r := rfl

/-! `resetWith`, `afterReset` -/

@[simp] theorem resetWith_params (p : Params) : (resetWith p).params = p := rfl
@[simp] theorem resetWith_v (p : Params) : (resetWith p).v = Vector.replicate 16 0x00#8 := rfl
@[simp] theorem resetWith_index (p : Params) : (resetWith p).index = 0x0000#16 := rfl
@[simp] theorem resetWith_pc (p : Params) : (resetWith p).pc = 0x0200#16 := rfl
@[simp] theorem resetWith_stack (p : Params) : (resetWith p).stack = Vector.replicate 16 0x0000#16 := rfl
@[simp] theorem resetWith_sp (p : Params) : (resetWith p).sp = 0 := rfl
@[simp] theorem resetWith_dt (p : Params) : (resetWith p).dt = 0x00#8 := rfl
@[simp] theorem resetWith_st (p : Params) : (resetWith p).st = 0x00#8 := rfl
@[simp] theorem resetWith_keys (p : Params) : (resetWith p).keys = Vector.replicate 16 false := rfl
@[simp] theorem resetWith_fb (p : Params) : (resetWith p).fb = Vector.replicate 32 0#64 := rfl
@[simp] theorem resetWith_mem (p : Params) : (resetWith p).mem = [] := rfl
@[simp] theorem resetWith_fault (p : Params) : (resetWith p).fault = none := rfl
@[simp] theorem resetWith_rndIn (p : Params) : (resetWith p).rndIn = [] := rfl
@[simp] theorem resetWith_draws (p : Params) : (resetWith p).draws = 0 := rfl
@[simp] theorem resetWith_getV (p : Params) (r : Reg) : (resetWith p).getV r = 0x00#8 := by simp [getV]
@[simp] theorem afterReset_eq (s : State) : s.afterReset = resetWith s.params := rfl

/-! Registers -/

/-- A register after a register write. -/
theorem getV_setV (s : State) (x y : Reg) (b : Byte) : (s.setV x b).getV y = if x = y then b else s.getV y := by
  simp [getV, setV, Vector.getElem_set, Fin.ext_iff]

@[simp] theorem getV_setV_same (s : State) (x : Reg) (b : Byte) : (s.setV x b).getV x = b := by
  simp [getV_setV]

theorem getV_setV_other (s : State) {x y : Reg} (b : Byte) (h : x ≠ y) : (s.setV x b).getV y = s.getV y := by
  simp [getV_setV, h]

/-- Flag first, result second: the destination holds the result even when it is VF. -/
@[simp] theorem getV_setFlagThenV_same (s : State) (x : Reg) (f : Bool) (b : Byte) :
    (s.setFlagThenV x f b).getV x = b := by
  simp [setFlagThenV]

/-- VF holds the flag unless VF is the destination. -/
theorem getV_setFlagThenV_flag (s : State) {x : Reg} (f : Bool) (b : Byte) (h : x ≠ 15) :
    (s.setFlagThenV x f b).getV 15 = flagByte f := by
  rw [setFlagThenV, getV_setV_other _ _ h]
  exact getV_setV_same s regVF _

/-- Every register but the destination and VF keeps its value. -/
theorem getV_setFlagThenV_other (s : State) {x r : Reg} (f : Bool) (b : Byte) (h : x ≠ r) (hf : r ≠ 15) :
    (s.setFlagThenV x f b).getV r = s.getV r := by
  exact (getV_setV_other _ _ h).trans (getV_setV_other s _ (Ne.symm hf))

/-- Two register files that read alike are the same. -/
theorem v_ext {s t : State} (h : ∀ r, t.getV r = s.getV r) : t.v = s.v := 
  Vector.ext fun i hi => h ⟨i, hi⟩

/-! A list of register writes -/

@[simp] theorem setMany_params (s : State) (l : List (Reg × Byte)) : (s.setMany l).params = s.params := by
  induction l generalizing s with
  | nil => rfl
  | cons p l ih => exact ih (s.setV p.1 p.2)
@[simp] theorem setMany_index (s : State) (l : List (Reg × Byte)) : (s.setMany l).index = s.index := by
  induction l generalizing s with
  | nil => rfl
  | cons p l ih => exact ih (s.setV p.1 p.2)
@[simp] theorem setMany_pc (s : State) (l : List (Reg × Byte)) : (s.setMany l).pc = s.pc := by
  induction l generalizing s with
  | nil => rfl
  | cons p l ih => exact ih (s.setV p.1 p.2)
@[simp] theorem setMany_stack (s : State) (l : List (Reg × Byte)) : (s.setMany l).stack = s.stack := by
  induction l generalizing s with
  | nil => rfl
  | cons p l ih => exact ih (s.setV p.1 p.2)
@[simp] theorem setMany_sp (s : State) (l : List (Reg × Byte)) : (s.setMany l).sp = s.sp := by
  induction l generalizing s with
  | nil => rfl
  | cons p l ih => exact ih (s.setV p.1 p.2)
@[simp] theorem setMany_dt (s : State) (l : List (Reg × Byte)) : (s.setMany l).dt = s.dt := by
  induction l generalizing s with
  | nil => rfl
  | cons p l ih => exact ih (s.setV p.1 p.2)
@[simp] theorem setMany_st (s : State) (l : List (Reg × Byte)) : (s.setMany l).st = s.st := by
  induction l generalizing s with
  | nil => rfl
  | cons p l ih => exact ih (s.setV p.1 p.2)
@[simp] theorem setMany_keys (s : State) (l : List (Reg × Byte)) : (s.setMany l).keys = s.keys := by
  induction l generalizing s with
  | nil => rfl
  | cons p l ih => exact ih (s.setV p.1 p.2)
@[simp] theorem setMany_fb (s : State) (l : List (Reg × Byte)) : (s.setMany l).fb = s.fb := by
  induction l generalizing s with
  | nil => rfl
  | cons p l ih => exact ih (s.setV p.1 p.2)
@[simp] theorem setMany_mem (s : State) (l : List (Reg × Byte)) : (s.setMany l).mem = s.mem := by
  induction l generalizing s with
  | nil => rfl
  | cons p l ih => exact ih (s.setV p.1 p.2)
@[simp] theorem setMany_fault (s : State) (l : List (Reg × Byte)) : (s.setMany l).fault = s.fault := by
  induction l generalizing s with
  | nil => rfl
  | cons p l ih => exact ih (s.setV p.1 p.2)
@[simp] theorem setMany_rndIn (s : State) (l : List (Reg × Byte)) : (s.setMany l).rndIn = s.rndIn := by
  induction l generalizing s with
  | nil => rfl
  | cons p l ih => exact ih (s.setV p.1 p.2)
@[simp] theorem setMany_draws (s : State) (l : List (Reg × Byte)) : (s.setMany l).draws = s.draws := by
  induction l generalizing s with
  | nil => rfl
  | cons p l ih => exact ih (s.setV p.1 p.2)

/-- A register no write of the list names keeps its value. -/
theorem getV_setMany_not_mem (s : State) (l : List (Reg × Byte)) (r : Reg) (h : ∀ p ∈ l, p.1 ≠ r) :
    (s.setMany l).getV r = s.getV r := by
  induction l generalizing s with
  | nil => rfl
  | cons p l ih =>
    have hp : p.1 ≠ r := h p (by simp)
    have hl : ∀ q ∈ l, q.1 ≠ r := fun q hq => h q (by simp [hq])
    exact (ih (s.setV p.1 p.2) hl).trans (getV_setV_other s p.2 hp)

/-- A register the list names holds the byte, when every write of that register in the list writes this byte. -/
theorem getV_setMany_mem (s : State) (l : List (Reg × Byte)) (r : Reg) (b : Byte) (hm : (r, b) ∈ l)
    (h : ∀ p ∈ l, p.1 = r → p.2 = b) : (s.setMany l).getV r = b := by
  induction l generalizing s with
  | nil => simp at hm
  | cons p l ih =>
    have hl : ∀ q ∈ l, q.1 = r → q.2 = b := fun q hq => h q (by simp [hq])
    by_cases hin : (r, b) ∈ l
    · exact ih (s.setV p.1 p.2) hin hl
    · have hp : p = (r, b) := by simpa [hin, eq_comm] using hm
      have hnot : ∀ q ∈ l, q.1 ≠ r := fun q hq e => hin ((Prod.ext e (hl q hq e) : q = (r, b)) ▸ hq)
      rw [hp]
      exact (getV_setMany_not_mem (s.setV r b) l r hnot).trans (getV_setV_same s r b)

end Sys2Proof.Machine.State
end

