-- ==== Sys2Proof/Laws/Ops.lean ====
section
/-! SUPPORT. One lemma for each shared operation, saying what it can do: the range check, the ends of a cycle, the timers,
the stack, the keypad, the register block, fetch; and how each instruction ends its cycle. -/

namespace Sys2Proof.Machine

/-! ### The range check (20_memory.md R53) -/

/-- Nothing is out of range. -/
theorem checkRange_eq_none {a n : Nat} : checkRange a n = none ↔ n = 0 ∨ a + n ≤ 4096 := by
  unfold checkRange
  split <;> simp <;> omega

/-- The lowest address out of range. -/
theorem checkRange_eq_some {a n bad : Nat} :
    checkRange a n = some bad ↔ (1 ≤ n ∧ 4096 < a + n) ∧ max a 4096 = bad := by
  unfold checkRange
  split
  · rw [Option.some_inj]; exact ⟨fun h => ⟨by omega, h⟩, fun h => h.2⟩
  · exact ⟨fun h => by simp at h, fun h => by omega⟩

/-- An access in range goes on. -/
theorem withRange_of_in {a n : Nat} (s : State) (go : Result) (h : n = 0 ∨ a + n ≤ 4096) : withRange a n s go = go := by
  rw [withRange, checkRange_eq_none.mpr h]

/-- An access that leaves memory faults at the lowest address that does not exist. -/
theorem withRange_of_out {a n : Nat} (s : State) (go : Result) (h1 : 1 ≤ n) (h2 : 4096 < a + n) :
    withRange a n s go = raise .address (max a 4096) s := by
  rw [withRange, checkRange_eq_some.mpr ⟨⟨h1, h2⟩, rfl⟩]

/-! ### Numbers -/

/-- The tick as a number: down by one, clamped at zero. -/
@[simp] theorem toNat_tickDown (b : Byte) : (tickDown b).toNat = b.toNat - 1 := by
  have := b.isLt
  unfold tickDown
  split
  · simp [*]
  · have hb : b.toNat ≠ 0 := fun h => ‹¬b = 0x00#8› (BitVec.eq_of_toNat_eq h)
    rw [BitVec.toNat_sub_of_le (by rw [BitVec.le_def]; exact Nat.one_le_iff_ne_zero.mpr hb)]
    rfl

@[simp] theorem toNat_flagByte (b : Bool) : (flagByte b).toNat = if b then 1 else 0 := by
  cases b <;> rfl

@[simp] theorem toNat_addrOf (nnn : Addr) : (addrOf nnn).toNat = nnn.toNat := by
  have := nnn.isLt
  simp [addrOf]
  omega

/-- The computed jump's sum does not leave 16 bits. -/
@[simp] theorem toNat_jumpV0Target (nnn : Addr) (s : State) :
    (jumpV0Target nnn s).toNat = nnn.toNat + (s.getV 0).toNat := by
  have := nnn.isLt
  have := (s.getV 0).isLt
  simp [jumpV0Target, addrOf]
  omega

@[simp] theorem nextPc_eq (s : State) : s.nextPc = s.pc + 2#16 := rfl

/-- Moving past an instruction that lies in memory does not wrap. -/
theorem toNat_nextPc {s : State} (h : s.pc.toNat ≤ 0x10FE) : s.nextPc.toNat = s.pc.toNat + 2 := by
  simp
  omega

/-! ### The keypad (45_timer_key.md R163) -/

/-- There are sixteen of them. -/
@[simp] theorem length_sixteen : sixteen.length = 16 := rfl

/-- The sixteen numbers stand at their own places. -/
theorem getElem_sixteen (i : Nat) (h : i < sixteen.length) : sixteen[i] = ⟨i, length_sixteen ▸ h⟩ := by
  have := (by decide : ∀ k : Fin 16, sixteen[k.val]'(length_sixteen.symm ▸ k.isLt) = k)
  exact this ⟨i, length_sixteen ▸ h⟩

/-- No key is found just when none is held. -/
theorem firstKey_eq_none {s : State} : s.firstKey = none ↔ ∀ k, s.key k = false := by
  have hall : ∀ k : Fin 16, k ∈ sixteen := by decide
  simp only [State.firstKey, List.find?_eq_none, Bool.not_eq_true]
  exact ⟨fun h k => h k (hall k), fun h k _ => h k⟩

/-- The key found is the least one held. -/
theorem firstKey_eq_some {s : State} {k : Fin 16} :
    s.firstKey = some k ↔ s.key k = true ∧ ∀ j, j < k → s.key j = false := by
  simp only [State.firstKey, List.find?_eq_some_iff_getElem, getElem_sixteen]
  constructor
  · rintro ⟨hk, i, hi, rfl, hlt⟩
    exact ⟨hk, fun j hj => by simpa using hlt j.val hj⟩
  · rintro ⟨hk, hlt⟩
    have hkl : k.val < sixteen.length := by rw [length_sixteen]; exact k.isLt
    exact ⟨hk, k.val, hkl, rfl, fun j hj => by simpa using hlt ⟨j, hj.trans k.isLt⟩ hj⟩

/-! ### The register block of `Fx55` and `Fx65` -/

/-- Registers V0 to VX are those up to X. -/
theorem mem_regsUpTo {x k : Reg} : k ∈ regsUpTo x ↔ k ≤ x := by
  revert x k; decide

@[simp] theorem length_regsUpTo (x : Reg) : (regsUpTo x).length = x.val + 1 := by
  revert x; decide

/-- They come in ascending order. -/
theorem getElem_regsUpTo (x k : Reg) (h : k ≤ x) :
    (regsUpTo x)[k.val]'(by rw [length_regsUpTo]; exact Nat.lt_succ_of_le h) = k := by
  revert x k; decide

/-- What a register holds after `Fx65` has loaded V0 to VX. -/
theorem getV_setMany_loadedRegs (x r : Reg) (s : State) :
    (s.setMany (loadedRegs x s)).getV r =
      if r ≤ x then Memory.read s.params s.mem (s.index.toNat + r.val) else s.getV r := by
  split
  · rename_i h
    refine State.getV_setMany_mem s _ r _ ?_ ?_
    · exact List.mem_map.mpr ⟨r, mem_regsUpTo.mpr h, rfl⟩
    · intro p hp hr
      obtain ⟨k, -, rfl⟩ := List.mem_map.mp hp
      exact hr ▸ rfl
  · rename_i h
    refine State.getV_setMany_not_mem s _ r fun p hp => ?_
    obtain ⟨k, hk, rfl⟩ := List.mem_map.mp hp
    exact fun e => h (e ▸ mem_regsUpTo.mp hk)

/-! ### Fetch (30_encoding.md R74) -/

/-- A fetch inside memory gives the big-endian word at `PC`. -/
theorem fetch_of_in {s : State} (h : s.pc.toNat ≤ 0xFFE) :
    s.fetch = .ok (wordOfBytes (Memory.read s.params s.mem s.pc.toNat) (Memory.read s.params s.mem (s.pc.toNat + 1))) := by
  rw [State.fetch, checkRange_eq_none.mpr (.inr (by omega))]

/-- A fetch that leaves memory faults at the lowest address that does not exist. -/
theorem fetch_of_out {s : State} (h : 0xFFE < s.pc.toNat) : s.fetch = .error (max s.pc.toNat 4096) := by
  rw [State.fetch, checkRange_eq_some.mpr ⟨⟨by omega, by omega⟩, rfl⟩]

/-- A word was fetched only from inside memory. -/
theorem fetch_eq_ok {s : State} {w : Word} (h : s.fetch = .ok w) :
    s.pc.toNat ≤ 0xFFE ∧ w = wordOfBytes (Memory.read s.params s.mem s.pc.toNat) (Memory.read s.params s.mem (s.pc.toNat + 1)) := by
  by_cases hp : s.pc.toNat ≤ 0xFFE
  · rw [fetch_of_in hp] at h
    exact ⟨hp, (Except.ok.inj h).symm⟩
  · rw [fetch_of_out (by omega)] at h
    exact absurd h (by simp)

end Sys2Proof.Machine
end

