-- ==== Sys2Proof/Laws/PerInstr.lean ====
section
/-! SUPPORT. Statements about every instruction as syntax, one lemma per constructor. The family `InRow`: the word of a
well-formed instruction has the bits that its row of the opcode map fixes (30_encoding.md R83). -/

namespace Sys2Proof.Laws

/-- The bits a row of the opcode map fixes: `OP`, and where the row's mask covers them `N` or `KK`
(30_encoding.md R83). -/
structure RowBits where
  op : Nat
  n : Option Nat
  kk : Option Nat
  deriving DecidableEq, Repr

/-- The row of each instruction in the opcode map (30_encoding.md R83). -/
def rowBits : Instr → RowBits
  | .cls _ => ⟨0x0, some 0x0, none⟩
  | .ret _ => ⟨0x0, some 0xE, none⟩
  | .jpNnn _ => ⟨0x1, none, none⟩
  | .callNnn _ => ⟨0x2, none, none⟩
  | .seVxKk _ _ => ⟨0x3, none, none⟩
  | .sneVxKk _ _ => ⟨0x4, none, none⟩
  | .seVxVy _ _ _ => ⟨0x5, none, none⟩
  | .ldVxKk _ _ => ⟨0x6, none, none⟩
  | .addVxKk _ _ => ⟨0x7, none, none⟩
  | .ldVxVy _ _ => ⟨0x8, some 0x0, none⟩
  | .orVxVy _ _ => ⟨0x8, some 0x1, none⟩
  | .andVxVy _ _ => ⟨0x8, some 0x2, none⟩
  | .xorVxVy _ _ => ⟨0x8, some 0x3, none⟩
  | .addVxVy _ _ => ⟨0x8, some 0x4, none⟩
  | .subVxVy _ _ => ⟨0x8, some 0x5, none⟩
  | .shrVx _ _ => ⟨0x8, some 0x6, none⟩
  | .subnVxVy _ _ => ⟨0x8, some 0x7, none⟩
  | .shlVx _ _ => ⟨0x8, some 0xE, none⟩
  | .sneVxVy _ _ _ => ⟨0x9, none, none⟩
  | .ldINnn _ => ⟨0xA, none, none⟩
  | .jpV0Nnn _ => ⟨0xB, none, none⟩
  | .rndVxKk _ _ => ⟨0xC, none, none⟩
  | .drwVxVyN _ _ _ => ⟨0xD, none, none⟩
  | .skpVx _ => ⟨0xE, none, some 0x9E⟩
  | .sknpVx _ => ⟨0xE, none, some 0xA1⟩
  | .ldVxDt _ => ⟨0xF, none, some 0x07⟩
  | .ldVxK _ => ⟨0xF, none, some 0x0A⟩
  | .ldDtVx _ => ⟨0xF, none, some 0x15⟩
  | .ldStVx _ => ⟨0xF, none, some 0x18⟩
  | .addIVx _ => ⟨0xF, none, some 0x1E⟩
  | .ldFVx _ => ⟨0xF, none, some 0x29⟩
  | .ldBVx _ => ⟨0xF, none, some 0x33⟩
  | .ldMemVx _ => ⟨0xF, none, some 0x55⟩
  | .ldVxMem _ => ⟨0xF, none, some 0x65⟩
  | .sysNnn _ => ⟨0x0, none, none⟩
  | .nop8 _ _ _ => ⟨0x8, none, none⟩
  | .nopE _ _ => ⟨0xE, none, none⟩
  | .nopF _ _ => ⟨0xF, none, none⟩

/-- The word has the bits the row fixes. -/
def RowBits.holdsOf (r : RowBits) (w : Word) : Prop :=
  w.toNat / 4096 = r.op ∧ (∀ k, r.n = some k → w.toNat % 16 = k) ∧ (∀ k, r.kk = some k → w.toNat % 256 = k)

/-- A word of format A in a row that fixes `OP` only. -/
theorem holdsOf_wordA (op : Nibble) (nnn : Addr) : RowBits.holdsOf ⟨op.toNat, none, none⟩ (wordA op nnn) := by
  have := nnn.isLt
  refine ⟨?_, by simp, by simp⟩
  rw [toNat_wordA]
  change _ = op.toNat
  omega

/-- A word of format XK in a row that fixes `OP` only. -/
theorem holdsOf_wordXK (op : Nibble) (x : Reg) (kk : Byte) :
    RowBits.holdsOf ⟨op.toNat, none, none⟩ (wordXK op x kk) := by
  have := kk.isLt
  have := x.isLt
  refine ⟨?_, by simp, by simp⟩
  rw [toNat_wordXK]
  change _ = op.toNat
  omega

/-- A word of format XS in a row that fixes `OP` and `KK`. -/
theorem holdsOf_wordXS (op : Nibble) (x : Reg) (kk : Byte) :
    RowBits.holdsOf ⟨op.toNat, none, some kk.toNat⟩ (wordXK op x kk) := by
  have := kk.isLt
  refine ⟨(holdsOf_wordXK op x kk).1, by simp, fun k hk => ?_⟩
  rw [toNat_wordXK, ← Option.some.inj hk]
  omega

/-- A word of format XY or XYN in a row that fixes `OP` only. -/
theorem holdsOf_wordXYN (op : Nibble) (x y : Reg) (n : Nibble) :
    RowBits.holdsOf ⟨op.toNat, none, none⟩ (wordXYN op x y n) := by
  have := n.isLt
  have := x.isLt
  have := y.isLt
  refine ⟨?_, by simp, by simp⟩
  rw [toNat_wordXYN]
  change _ = op.toNat
  omega

/-- A word of format XY in a row that fixes `OP` and `N`. -/
theorem holdsOf_wordXY (op : Nibble) (x y : Reg) (n : Nibble) :
    RowBits.holdsOf ⟨op.toNat, some n.toNat, none⟩ (wordXYN op x y n) := by
  have := n.isLt
  refine ⟨(holdsOf_wordXYN op x y n).1, fun k hk => ?_, by simp⟩
  rw [toNat_wordXYN, ← Option.some.inj hk]
  omega

/-- A word of format Z in a row that fixes `OP` and `N`. -/
theorem holdsOf_wordZ (u : Byte) (n : Nibble) : RowBits.holdsOf ⟨0, some n.toNat, none⟩ (wordZ u n) := by
  have := n.isLt
  have := u.isLt
  refine ⟨?_, fun k hk => ?_, by simp⟩
  · rw [toNat_wordZ]; change _ = 0; omega
  · rw [toNat_wordZ, ← Option.some.inj hk]; omega

/-- The family: the word of the instruction lies in its row. -/
def InRow.Statement (i : Instr) : Prop := (rowBits i).holdsOf (encode i)

namespace InRow

theorem cls (u : Byte) : Statement (.cls u) := holdsOf_wordZ u 0x0#4
theorem ret (u : Byte) : Statement (.ret u) := holdsOf_wordZ u 0xE#4
theorem jpNnn (a : Addr) : Statement (.jpNnn a) := holdsOf_wordA 0x1#4 a
theorem callNnn (a : Addr) : Statement (.callNnn a) := holdsOf_wordA 0x2#4 a
theorem seVxKk (x : Reg) (k : Byte) : Statement (.seVxKk x k) := holdsOf_wordXK 0x3#4 x k
theorem sneVxKk (x : Reg) (k : Byte) : Statement (.sneVxKk x k) := holdsOf_wordXK 0x4#4 x k
theorem seVxVy (x : Reg) (y : Reg) (n : Nibble) : Statement (.seVxVy x y n) := holdsOf_wordXYN 0x5#4 x y n
theorem ldVxKk (x : Reg) (k : Byte) : Statement (.ldVxKk x k) := holdsOf_wordXK 0x6#4 x k
theorem addVxKk (x : Reg) (k : Byte) : Statement (.addVxKk x k) := holdsOf_wordXK 0x7#4 x k
theorem ldVxVy (x : Reg) (y : Reg) : Statement (.ldVxVy x y) := holdsOf_wordXY 0x8#4 x y 0x0#4
theorem orVxVy (x : Reg) (y : Reg) : Statement (.orVxVy x y) := holdsOf_wordXY 0x8#4 x y 0x1#4
theorem andVxVy (x : Reg) (y : Reg) : Statement (.andVxVy x y) := holdsOf_wordXY 0x8#4 x y 0x2#4
theorem xorVxVy (x : Reg) (y : Reg) : Statement (.xorVxVy x y) := holdsOf_wordXY 0x8#4 x y 0x3#4
theorem addVxVy (x : Reg) (y : Reg) : Statement (.addVxVy x y) := holdsOf_wordXY 0x8#4 x y 0x4#4
theorem subVxVy (x : Reg) (y : Reg) : Statement (.subVxVy x y) := holdsOf_wordXY 0x8#4 x y 0x5#4
theorem shrVx (x : Reg) (y : Reg) : Statement (.shrVx x y) := holdsOf_wordXY 0x8#4 x y 0x6#4
theorem subnVxVy (x : Reg) (y : Reg) : Statement (.subnVxVy x y) := holdsOf_wordXY 0x8#4 x y 0x7#4
theorem shlVx (x : Reg) (y : Reg) : Statement (.shlVx x y) := holdsOf_wordXY 0x8#4 x y 0xE#4
theorem sneVxVy (x : Reg) (y : Reg) (n : Nibble) : Statement (.sneVxVy x y n) := holdsOf_wordXYN 0x9#4 x y n
theorem ldINnn (a : Addr) : Statement (.ldINnn a) := holdsOf_wordA 0xA#4 a
theorem jpV0Nnn (a : Addr) : Statement (.jpV0Nnn a) := holdsOf_wordA 0xB#4 a
theorem rndVxKk (x : Reg) (k : Byte) : Statement (.rndVxKk x k) := holdsOf_wordXK 0xC#4 x k
theorem drwVxVyN (x : Reg) (y : Reg) (n : Nibble) : Statement (.drwVxVyN x y n) := holdsOf_wordXYN 0xD#4 x y n
theorem skpVx (x : Reg) : Statement (.skpVx x) := holdsOf_wordXS 0xE#4 x 0x9E#8
theorem sknpVx (x : Reg) : Statement (.sknpVx x) := holdsOf_wordXS 0xE#4 x 0xA1#8
theorem ldVxDt (x : Reg) : Statement (.ldVxDt x) := holdsOf_wordXS 0xF#4 x 0x07#8
theorem ldVxK (x : Reg) : Statement (.ldVxK x) := holdsOf_wordXS 0xF#4 x 0x0A#8
theorem ldDtVx (x : Reg) : Statement (.ldDtVx x) := holdsOf_wordXS 0xF#4 x 0x15#8
theorem ldStVx (x : Reg) : Statement (.ldStVx x) := holdsOf_wordXS 0xF#4 x 0x18#8
theorem addIVx (x : Reg) : Statement (.addIVx x) := holdsOf_wordXS 0xF#4 x 0x1E#8
theorem ldFVx (x : Reg) : Statement (.ldFVx x) := holdsOf_wordXS 0xF#4 x 0x29#8
theorem ldBVx (x : Reg) : Statement (.ldBVx x) := holdsOf_wordXS 0xF#4 x 0x33#8
theorem ldMemVx (x : Reg) : Statement (.ldMemVx x) := holdsOf_wordXS 0xF#4 x 0x55#8
theorem ldVxMem (x : Reg) : Statement (.ldVxMem x) := holdsOf_wordXS 0xF#4 x 0x65#8
theorem sysNnn (a : Addr) : Statement (.sysNnn a) := holdsOf_wordA 0x0#4 a
theorem nop8 (x : Reg) (y : Reg) (n : Nibble) : Statement (.nop8 x y n) := holdsOf_wordXYN 0x8#4 x y n
theorem nopE (x : Reg) (k : Byte) : Statement (.nopE x k) := holdsOf_wordXK 0xE#4 x k
theorem nopF (x : Reg) (k : Byte) : Statement (.nopF x k) := holdsOf_wordXK 0xF#4 x k

end InRow

end Sys2Proof.Laws
end

