-- ==== Sys2Proof/Laws/Shared.lean ====
section
/-! SUPPORT. What the operations shared by several meanings do, said once each: a skip, a register result without and with a flag,
a key test, the plain move past an instruction, and taking a fault. -/

namespace Sys2Proof.Machine

/-- Moving past the instruction and ticking changes nothing else. -/
theorem advance_completes (s : State) : CompletesAt (s.pc + 2#16) [] s s.advance.tick := by
  simp [CompletesAt, TickedFrom, OnlyChanges]

/-- A skip completes at `pc0 + 4` or `pc0 + 2` with nothing else changed (40_skip.md R100). -/
theorem skipIf_completes (cond : Bool) (s : State) :
    ∃ t, skipIf cond s = .next t ∧ CompletesAt (if cond then s.pc + 4#16 else s.pc + 2#16) [] s t := by
  have e : s.pc + 2#16 + 2#16 = s.pc + 4#16 := by rw [BitVec.add_assoc]; rfl
  refine ⟨_, rfl, ?_⟩
  cases cond <;> simp [CompletesAt, TickedFrom, OnlyChanges, e]

/-- A register result without a flag: the destination holds it and nothing else changes. -/
theorem putV_completes (x : Reg) (b : Byte) (s : State) :
    ∃ t, putV x b s = .next t ∧ t.getV x = b ∧ CompletesAt (s.pc + 2#16) [.v x] s t := by
  refine ⟨_, rfl, by simp, ?_⟩
  simp only [CompletesAt, TickedFrom, OnlyChanges]
  simp
  exact fun r hr => State.getV_setV_other s b (Ne.symm hr)

/-- A register result with a flag: the destination holds the result, VF the flag unless it is the destination, and nothing else
changes (42_alu.md R120). -/
theorem putFlagged_completes (x : Reg) (flag : Bool) (b : Byte) (s : State) :
    ∃ t, putFlagged x flag b s = .next t ∧ t.getV x = b ∧ (x ≠ 15 → t.getV 15 = flagByte flag) ∧
      CompletesAt (s.pc + 2#16) [.v x, .v 15] s t := by
  refine ⟨_, rfl, by simp, fun h => by simp [State.getV_setFlagThenV_flag s flag b h], ?_⟩
  simp only [CompletesAt, TickedFrom, OnlyChanges]
  simp
  exact fun r hr => State.getV_setFlagThenV_other s flag b (Ne.symm hr)

/-- A key number in range: the test goes on with that key's latch. -/
theorem withKey_of_in {x : Reg} {s : State} {k : Fin 16} (h : (s.getV x).toNat = k.val) (go : Bool → Result) :
    withKey x s go = go (s.key k) := by
  have hk : (s.getV x).toNat < 16 := h ▸ k.isLt
  rw [withKey, dif_pos hk]
  exact congrArg (fun j => go (s.key j)) (Fin.ext h)

/-- A key number out of range: an addressing fault that records it (40_skip.md R105). -/
theorem withKey_of_out {x : Reg} {s : State} (h : 15 < (s.getV x).toNat) (go : Bool → Result) :
    withKey x s go = raise .address (s.getV x).toNat s := by
  rw [withKey, dif_neg (by omega)]

/-- Taking a fault is the faulted state of the claims (60_exceptions.md R183, R186). -/
theorem raise_eq (cause : Cause) (info : Nat) (s : State) : raise cause info s = .next (faultedState cause info s) := rfl

end Sys2Proof.Machine
end

