-- ==== Sys2Proof/Laws/Step.lean ====
section
/-! SUPPORT. What an instruction and a step can do, said once: an instruction completes, faults or waits; a step is held, faults
at fetch, or is its instruction; and the laws of the driver's side. -/

namespace Sys2Proof.Machine

/-! ### How a meaning ends -/

/-- A completed meaning: its cycle ends in `u` ticked; the execute phase has changed neither the latch nor the keypad nor the parameters, and
has kept memory canonical; a key wait completes only with a key held. -/
structure Completed (i : Instr) (s u : State) : Prop where
  fault : u.fault = s.fault
  keys : u.keys = s.keys
  params : u.params = s.params
  mem : Memory.wf s.params s.mem = true → Memory.wf u.params u.mem = true
  notWaiting : isKeyWait i = true → s.firstKey ≠ none

/-- The three ways an instruction's cycle can end (30_encoding.md R82): it completes and the timers tick, it latches a fault record,
or, only for the key wait with no key held, nothing changes. -/
def Ends (i : Instr) (s : State) (r : Result) : Prop :=
  (∃ u, r = complete u ∧ Completed i s u) ∨ (∃ cause info, r = raise cause info s) ∨
  (r = keyWait s ∧ isKeyWait i = true ∧ s.firstKey = none)

/-- An instruction that completes. -/
theorem Ends.completes {i : Instr} {s : State} (u : State) (h : Completed i s u) : Ends i s (complete u) := .inl ⟨u, rfl, h⟩

/-- An instruction that faults. -/
theorem Ends.faults {i : Instr} {s : State} (cause : Cause) (info : Nat) : Ends i s (raise cause info s) :=
  .inr (.inl ⟨cause, info, rfl⟩)

/-- The key wait. -/
theorem Ends.waits {i : Instr} {s : State} (h : isKeyWait i = true) (hk : s.firstKey = none) : Ends i s (keyWait s) :=
  .inr (.inr ⟨rfl, h, hk⟩)

/-- A range check before an instruction that completes. -/
theorem ends_withRange {i : Instr} {s : State} (a n : Nat) {u : State} (h : Completed i s u) :
    Ends i s (withRange a n s (complete u)) := by
  unfold withRange
  split
  · exact .faults _ _
  · exact .completes u h

/-- Every instruction ends its cycle in one of the three ways. -/
theorem exec_ends (i : Instr) (s : State) : Ends i s (exec i s) := by
  cases i
  case callNnn nnn =>
    simp only [exec, execCallNnn]
    split
    · exact .completes _ ⟨rfl, rfl, rfl, id, by simp [isKeyWait]⟩
    · exact .faults _ _
  case ret u =>
    simp only [exec, execRet]
    split
    · exact .completes _ ⟨rfl, rfl, rfl, id, by simp [isKeyWait]⟩
    · exact .faults _ _
  case drwVxVyN x y n => exact ends_withRange _ _ ⟨rfl, rfl, rfl, id, by simp [isKeyWait]⟩
  case skpVx x =>
    simp only [exec, execSkpVx, withKey, skipIf]
    split
    · exact .completes _ ⟨by split <;> rfl, by split <;> rfl, by split <;> rfl, by split <;> exact id, by simp [isKeyWait]⟩
    · exact .faults _ _
  case sknpVx x =>
    simp only [exec, execSknpVx, withKey, skipIf]
    split
    · exact .completes _ ⟨by split <;> rfl, by split <;> rfl, by split <;> rfl, by split <;> exact id, by simp [isKeyWait]⟩
    · exact .faults _ _
  case ldVxK x =>
    simp only [exec, execLdVxK]
    split
    · exact .waits rfl ‹_›
    · rename_i k hk
      exact .completes _ ⟨rfl, rfl, rfl, id, fun _ => by simp [hk]⟩
  case addIVx x =>
    simp only [exec, execAddIVx]
    split
    · exact .faults _ _
    · exact .completes _ ⟨rfl, rfl, rfl, id, by simp [isKeyWait]⟩
  case ldBVx x => exact ends_withRange _ _ ⟨rfl, rfl, rfl, Memory.wf_writeBytes _ _, by simp [isKeyWait]⟩
  case ldMemVx x => exact ends_withRange _ _ ⟨rfl, rfl, rfl, Memory.wf_writeBytes _ _, by simp [isKeyWait]⟩
  case ldVxMem x => exact ends_withRange _ _ ⟨by simp, by simp, by simp, by simp, by simp [isKeyWait]⟩
  case seVxKk x kk => exact .completes _ ⟨by split <;> rfl, by split <;> rfl, by split <;> rfl, by split <;> exact id, by simp [isKeyWait]⟩
  case sneVxKk x kk => exact .completes _ ⟨by split <;> rfl, by split <;> rfl, by split <;> rfl, by split <;> exact id, by simp [isKeyWait]⟩
  case seVxVy x y n => exact .completes _ ⟨by split <;> rfl, by split <;> rfl, by split <;> rfl, by split <;> exact id, by simp [isKeyWait]⟩
  case sneVxVy x y n => exact .completes _ ⟨by split <;> rfl, by split <;> rfl, by split <;> rfl, by split <;> exact id, by simp [isKeyWait]⟩
  all_goals exact .completes _ ⟨rfl, rfl, rfl, id, by simp [isKeyWait]⟩

/-! ### How a step goes -/

/-- While a fault is latched a step changes nothing (60_exceptions.md R185). -/
theorem step_of_fault {s : State} {r : FaultRecord} (h : s.fault = some r) : step s = .next s := by
  simp [step, h]

/-- A fetch that leaves memory is an addressing fault. -/
theorem step_of_fetch_error {s : State} {bad : Nat} (h : s.fault = none) (hf : s.fetch = .error bad) :
    step s = raise .address bad s := by
  simp [step, h, hf]

/-- Otherwise a step is its instruction. -/
theorem step_of_fetch {s : State} {w : Word} (h : s.fault = none) (hf : s.fetch = .ok w) :
    step s = exec (decode w) s := by
  simp [step, h, hf]

/-- The cases of a step, each with the state it answers. -/
theorem step_cases {s : State} {P : Result → Prop} (held : s.fault ≠ none → P (.next s))
    (bad : s.fault = none → 0xFFE < s.pc.toNat → P (raise .address (max s.pc.toNat 4096) s))
    (run : ∀ w, s.fault = none → s.fetch = .ok w → Ends (decode w) s (exec (decode w) s) → P (exec (decode w) s)) :
    P (step s) := by
  cases hf : s.fault with
  | some r => rw [step_of_fault hf]; exact held (by simp [hf])
  | none =>
    by_cases hp : s.pc.toNat ≤ 0xFFE
    · have hw := fetch_of_in hp
      rw [step_of_fetch hf hw]
      exact run _ hf hw (exec_ends _ s)
    · rw [step_of_fetch_error hf (fetch_of_out (by omega))]
      exact bad hf (by omega)

/-- A step that changes nothing, any number of times, changes nothing. -/
theorem run_of_fixed {s : State} (h : step s = .next s) (k : Nat) : Host.Core.run Sys2Proof.core k s = .next s := by
  induction k with
  | zero => rfl
  | succ k ih =>
    have h' : Sys2Proof.core.step s = .next s := h
    simp only [Host.Core.run, h']
    exact ih

/-- One step and then `k` more. -/
theorem run_succ_of_step {s t : State} (h : step s = .next t) (k : Nat) :
    Host.Core.run Sys2Proof.core (k + 1) s = Host.Core.run Sys2Proof.core k t := by
  have h' : Sys2Proof.core.step s = .next t := h
  simp only [Host.Core.run, h']

/-- After a word placed with `withFetchWord`, fetch reads exactly that word. -/
theorem fetch_withFetchWord {s : State} (nbits w : Nat) (hw : Memory.wf s.params s.mem = true) (hp : s.pc.toNat ≤ 0xFFE) :
    (s.withFetchWord nbits w).fetch = .ok (tableWord nbits w) := by
  have hpc : (s.withFetchWord nbits w).pc = s.pc := rfl
  have hlen : (bytesOfWord (tableWord nbits w)).length = 2 := rfl
  have hin := Memory.read_writeBytes_inside hw s.pc.toNat (bytesOfWord (tableWord nbits w)) (by omega)
  have h0 := hin 0 (by omega)
  have h1 := hin 1 (by omega)
  rw [Nat.add_zero] at h0
  rw [fetch_of_in (by rw [hpc]; exact hp), hpc]
  simp only [State.withFetchWord, State.storeBytes_mem, State.storeBytes_params]
  rw [h0, h1]
  exact congrArg _ (wordOfBytes_bytesOfWord _)

/-! ### The driver's side -/

/-- A cycle is the step with the byte given, and the status of where it ends. -/
theorem cycle_of_step {rnd : Byte} {s t : State} (h : step (s.giveRnd rnd) = .next t) :
    cycle rnd s = .next (t.restoreRnd s, s.cycleStatus t) := by
  simp only [cycle, h]

/-- Whether a wait is pending, for a word fetched. -/
theorem awaitingKey_of_fetch {s : State} {w : Word} (h : s.fetch = .ok w) :
    s.awaitingKey = (isKeyWait (decode w) && s.firstKey.isNone) := by
  simp only [State.awaitingKey, h]

/-- Fetch depends on the parameters, memory and `PC` only. -/
theorem fetch_congr {s t : State} (hq : t.params = s.params) (hm : t.mem = s.mem) (hp : t.pc = s.pc) : t.fetch = s.fetch := by
  simp only [State.fetch, hq, hm, hp]

/-- A cell reads all ones just when it is lit. -/
theorem fbCell_eq_on (s : State) (p : Pixel) : s.fbCell p = 0xFFFFFFFF#32 ↔ Screen.lit s.fb p = true := by
  unfold State.fbCell
  cases Screen.lit s.fb p <;> decide

/-- A cell reads zero just when it is unlit. -/
theorem fbCell_eq_off (s : State) (p : Pixel) : s.fbCell p = 0x00000000#32 ↔ Screen.lit s.fb p = false := by
  unfold State.fbCell
  cases Screen.lit s.fb p <;> decide

/-- The pixels `Dxyn` toggles: those under a 1 bit of the sprite (43_display.md R141). -/
theorem mem_drwPixels (x y : Reg) (n : Nibble) (s : State) (p : Pixel) :
    p ∈ drwPixels x y n s ↔ ∃ row col, row < n.toNat ∧ col < 8 ∧
      (Memory.read s.params s.mem (s.index.toNat + row)).getLsbD (7 - col) = true ∧
      p.x.val = ((s.getV x).toNat + col) % 64 ∧ p.y.val = ((s.getV y).toNat + row) % 32 := by
  rw [drwPixels, mem_spritePixels]
  constructor
  · rintro ⟨r, c, b, h, hc, hb, h1, h2⟩
    obtain ⟨hr, rfl⟩ := List.getElem?_eq_some_iff.mp h
    rw [Memory.getElem_readBytes] at hb
    exact ⟨r, c, by simpa using hr, hc, hb, h1, h2⟩
  · rintro ⟨r, c, hr, hc, hb, h1, h2⟩
    refine ⟨r, c, _, List.getElem?_eq_some_iff.mpr ⟨by simpa using hr, rfl⟩, hc, ?_, h1, h2⟩
    rw [Memory.getElem_readBytes]
    exact hb

end Sys2Proof.Machine
end

