-- ==== Sys2Proof/Tests/Slice0.lean ====
section
/-! SUPPORT. The model's own tests. Expected results are the vectors of spec/95_test_vectors.md (their ids in the comments) or
words written out from the opcode map; and for each statement with hypotheses a witness that meets them. -/

namespace Sys2Proof.Tests

open Sys2Proof Sys2Proof.Machine

/-! ### Helpers -/

/-- The answer is a next state of which the check holds. -/
def ends (r : Result) (p : State → Bool) : Bool :=
  match r with
  | .next t => p t
  | _ => false

/-- The reset state with `PC` set and a word placed there, as the vectors' pre-states are. -/
def atPc (pc : Word) (w : Nat) : State := (State.reset.setPc pc).withFetchWord 16 w

/-- One cycle of the word at 0x200, from the reset state changed by `pre`, ends in a state of which the check holds. -/
def runs (w : Nat) (pre : State → State) (p : State → Bool) : Bool := ends (step (pre (atPc 0x200 w))) p

/-- The latches of the keys listed. -/
def held (ks : List (Fin 16)) (s : State) : State := s.setKeys (Vector.ofFn fun k => ks.contains k)

/-- What a check found is a next state. -/
theorem of_ends {r : Result} {P : State → Prop} [DecidablePred P] (h : ends r (fun t => decide (P t)) = true) :
    ∃ t, r = .next t ∧ P t := by
  cases r with
  | next t => exact ⟨t, rfl, of_decide_eq_true h⟩
  | fault r => exact absurd h (by simp [ends])
  | refused r => exact absurd h (by simp [ends])

/-! ### Well-formedness: each check refuses an ill-formed term, and takes its neighbour -/

theorem test_wf_sys_low_nibble_0 : (Instr.sysNnn 0x120).wellFormed = false := by decide
theorem test_wf_sys_low_nibble_E : (Instr.sysNnn 0x12E).wellFormed = false := by decide
theorem test_wf_sys : (Instr.sysNnn 0x123).wellFormed = true := by decide
theorem test_wf_nop8_assigned : (Instr.nop8 1 2 0x7).wellFormed = false ∧ (Instr.nop8 1 2 0xE).wellFormed = false := by
  decide
theorem test_wf_nop8 : (Instr.nop8 1 2 0x8).wellFormed = true := by decide
theorem test_wf_nopE_assigned : (Instr.nopE 1 0x9E).wellFormed = false ∧ (Instr.nopE 1 0xA1).wellFormed = false := by
  decide
theorem test_wf_nopE : (Instr.nopE 1 0x9F).wellFormed = true := by decide
theorem test_wf_nopF_assigned : (Instr.nopF 1 0x0A).wellFormed = false ∧ (Instr.nopF 1 0x65).wellFormed = false := by
  decide
theorem test_wf_nopF : (Instr.nopF 1 0x75).wellFormed = true := by decide

/-! ### Decoding: words written out from the encodings of 30_encoding.md R72, R83 -/

theorem test_decode_family_0 :
    decode 0b0000_00001110_0000 = .cls 0x0E ∧ decode 0b0000_00001110_1110 = .ret 0x0E ∧
    decode 0b0000_000100100011 = .sysNnn 0x123 := by decide
theorem test_decode_jumps :
    decode 0b0001_001000110100 = .jpNnn 0x234 ∧ decode 0b0010_001100000000 = .callNnn 0x300 ∧
    decode 0b1011_001100000000 = .jpV0Nnn 0x300 := by decide
theorem test_decode_immediates :
    decode 0b0011_0011_00101010 = .seVxKk 3 0x2A ∧ decode 0b0100_0011_00101010 = .sneVxKk 3 0x2A ∧
    decode 0b0110_1010_01111111 = .ldVxKk 10 0x7F ∧ decode 0b0111_0001_00000101 = .addVxKk 1 0x05 ∧
    decode 0b1100_0010_00001111 = .rndVxKk 2 0x0F := by decide
theorem test_decode_families_5_9 :
    decode 0b0101_0001_0010_1111 = .seVxVy 1 2 0xF ∧ decode 0b1001_0001_0010_0000 = .sneVxVy 1 2 0x0 := by decide
theorem test_decode_family_8_low :
    decode 0b1000_0001_0010_0000 = .ldVxVy 1 2 ∧ decode 0b1000_0001_0010_0001 = .orVxVy 1 2 ∧
    decode 0b1000_0001_0010_0010 = .andVxVy 1 2 ∧ decode 0b1000_0001_0010_0011 = .xorVxVy 1 2 ∧
    decode 0b1000_0001_0010_0100 = .addVxVy 1 2 := by decide
theorem test_decode_family_8_high :
    decode 0b1000_0001_0010_0101 = .subVxVy 1 2 ∧ decode 0b1000_0001_0010_0110 = .shrVx 1 2 ∧
    decode 0b1000_0001_0010_0111 = .subnVxVy 1 2 ∧ decode 0b1000_0001_0010_1110 = .shlVx 1 2 ∧
    decode 0b1000_0001_0010_1111 = .nop8 1 2 0xF := by decide
theorem test_decode_index_draw :
    decode 0b1010_001011110000 = .ldINnn 0x2F0 ∧ decode 0b1101_0000_0001_0101 = .drwVxVyN 0 1 5 := by decide
theorem test_decode_family_E :
    decode 0b1110_0100_10011110 = .skpVx 4 ∧ decode 0b1110_0100_10100001 = .sknpVx 4 ∧
    decode 0b1110_0001_10011111 = .nopE 1 0x9F := by decide
theorem test_decode_family_F_timers :
    decode 0b1111_0011_00000111 = .ldVxDt 3 ∧ decode 0b1111_0101_00001010 = .ldVxK 5 ∧
    decode 0b1111_0010_00010101 = .ldDtVx 2 ∧ decode 0b1111_0010_00011000 = .ldStVx 2 ∧
    decode 0b1111_0001_01110101 = .nopF 1 0x75 := by decide
theorem test_decode_family_F_memory :
    decode 0b1111_0010_00011110 = .addIVx 2 ∧ decode 0b1111_0011_00101001 = .ldFVx 3 ∧
    decode 0b1111_0100_00110011 = .ldBVx 4 ∧ decode 0b1111_0010_01010101 = .ldMemVx 2 ∧
    decode 0b1111_0010_01100101 = .ldVxMem 2 := by decide

/-- The words the opcode table gives rows 35 to 37 with their fields zero select an earlier row too, and that one wins (R83). -/
theorem test_decode_table_words :
    decodeTableWord 16 0x0001 = some (.sysNnn 0x001) ∧ decodeTableWord 16 0x0000 = some (.cls 0x00) ∧
    decodeTableWord 16 0x8000 = some (.ldVxVy 0 0) ∧ decodeTableWord 16 0xE000 = some (.nopE 0 0x00) ∧
    decodeTableWord 16 0xF000 = some (.nopF 0 0x00) := by decide
theorem test_decode_truncated : decodeBytes [0x60] = .error .truncated := by rfl

/-! ### Skips -/

-- SKP-1, SKP-2
theorem test_se_imm : runs 0x3A42 (·.setV 10 0x42) (·.pc == 0x204) && runs 0x3A42 (·.setV 10 0x43) (·.pc == 0x202) := by
  decide
-- SKP-3, SKP-4
theorem test_sne_imm : runs 0x4A42 (·.setV 10 0x42) (·.pc == 0x202) && runs 0x4A42 (·.setV 10 0x43) (·.pc == 0x204) := by
  decide
-- SKP-7, SKP-6
theorem test_se_reg : runs 0x512F (fun s => (s.setV 1 7).setV 2 7) (·.pc == 0x204) &&
    runs 0x5120 (fun s => (s.setV 1 7).setV 2 8) (·.pc == 0x202) := by decide
-- SKP-11, SKP-10
theorem test_sne_reg : runs 0x9125 (fun s => (s.setV 1 7).setV 2 8) (·.pc == 0x204) &&
    runs 0x9120 (fun s => (s.setV 1 7).setV 2 7) (·.pc == 0x202) := by decide
-- SKP-13, SKP-14
theorem test_skp : runs 0xE19E (fun s => held [5] (s.setV 1 5)) (·.pc == 0x204) &&
    runs 0xE19E (fun s => held [4, 6] (s.setV 1 5)) (·.pc == 0x202) := by decide
-- SKP-18
theorem test_skp_key_number : runs 0xE19E (fun s => held [0] (s.setV 1 0x10))
    (fun t => t.pc == 0x200 && t.fault == some ⟨.address, 0x200, 16⟩) := by decide
-- SKP-15, SKP-16
theorem test_sknp : runs 0xE1A1 (fun s => held [5] (s.setV 1 5)) (·.pc == 0x202) &&
    runs 0xE1A1 (·.setV 1 5) (·.pc == 0x204) := by decide
-- SKP-19
theorem test_sknp_key_number : runs 0xE1A1 (·.setV 1 0xFF) (·.fault == some ⟨.address, 0x200, 255⟩) := by decide

/-! ### Jumps, calls, return -/

-- JMP-1
theorem test_jp : runs 0x1ABC id (·.pc == 0xABC) := by decide
-- JMP-6
theorem test_call : runs 0x2ABC (fun s => { s with sp := 15 })
    (fun t => t.pc == 0xABC && t.sp == 16 && t.stack[15] == 0x202) := by decide
-- JMP-7
theorem test_call_full : runs 0x2ABC (fun s => { s with sp := 16 })
    (fun t => t.pc == 0x200 && t.sp == 16 && t.fault == some ⟨.stack, 0x200, 16⟩) := by decide
-- JMP-11
theorem test_ret : runs 0x01AE (fun s => { s with stack := s.stack.set 0 0x345, sp := 1 })
    (fun t => t.pc == 0x345 && t.sp == 0 && t.stack[0] == 0x345) := by decide
-- JMP-10
theorem test_ret_empty : runs 0x00EE id (fun t => t.pc == 0x200 && t.fault == some ⟨.stack, 0x200, 0⟩) := by decide
-- JMP-13, JMP-14
theorem test_jp_v0 : runs 0xBFFF (·.setV 0 0xFF) (·.pc == 0x10FE) && runs 0xB300 (·.setV 3 0x55) (·.pc == 0x300) := by
  decide

/-! ### Register loads and the ALU -/

-- ALU-1
theorem test_ld_imm : runs 0x6A7F id (fun t => t.getV 10 == 0x7F && t.pc == 0x202) := by decide
-- ALU-3
theorem test_add_imm : runs 0x7105 (fun s => (s.setV 1 0xFE).setV 15 1) (fun t => t.getV 1 == 3 && t.getV 15 == 1) := by
  decide
-- ALU-5
theorem test_ld_reg : runs 0x8120 (·.setV 2 0x5A) (·.getV 1 == 0x5A) := by decide
-- ALU-6
theorem test_or : runs 0x8121 (fun s => ((s.setV 1 0xF0).setV 2 0x3C).setV 15 1)
    (fun t => t.getV 1 == 0xFC && t.getV 15 == 1) := by decide
-- ALU-7
theorem test_and : runs 0x8122 (fun s => ((s.setV 1 0xF0).setV 2 0x3C).setV 15 1)
    (fun t => t.getV 1 == 0x30 && t.getV 15 == 1) := by decide
-- ALU-8
theorem test_xor : runs 0x8123 (fun s => ((s.setV 1 0xF0).setV 2 0x3C).setV 15 1)
    (fun t => t.getV 1 == 0xCC && t.getV 15 == 1) := by decide
-- ALU-12, ALU-15
theorem test_add : runs 0x8124 (fun s => (s.setV 1 0xC8).setV 2 0x64) (fun t => t.getV 1 == 0x2C && t.getV 15 == 1) &&
    runs 0x8124 (·.setV 1 0xFF) (fun t => t.getV 1 == 0xFF && t.getV 15 == 0) := by decide
-- ALU-17, ALU-18
theorem test_add_vf : runs 0x8F14 (fun s => (s.setV 15 0xFF).setV 1 2) (·.getV 15 == 1) &&
    runs 0x81F4 (fun s => (s.setV 1 0xFF).setV 15 1) (fun t => t.getV 1 == 0 && t.getV 15 == 1) := by decide
-- ALU-20, ALU-21
theorem test_sub : runs 0x8125 (fun s => ((s.setV 1 3).setV 2 10).setV 15 1)
      (fun t => t.getV 1 == 0xF9 && t.getV 15 == 0) &&
    runs 0x8125 (fun s => (s.setV 1 7).setV 2 7) (fun t => t.getV 1 == 0 && t.getV 15 == 1) := by decide
-- ALU-22, ALU-23
theorem test_sub_vf : runs 0x8F15 (fun s => (s.setV 15 5).setV 1 3) (·.getV 15 == 2) &&
    runs 0x81F5 (fun s => (s.setV 1 5).setV 15 9) (fun t => t.getV 1 == 0xFC && t.getV 15 == 0) := by decide
-- ALU-24, ALU-27
theorem test_shr : runs 0x8126 (fun s => (s.setV 1 5).setV 2 0xFF) (fun t => t.getV 1 == 2 && t.getV 15 == 1) &&
    runs 0x8F26 (fun s => (s.setV 15 3).setV 2 0x80) (·.getV 15 == 1) := by decide
-- ALU-9, ALU-10
theorem test_subn : runs 0x8127 (fun s => (s.setV 1 3).setV 2 10) (fun t => t.getV 1 == 7 && t.getV 15 == 1) &&
    runs 0x8127 (fun s => ((s.setV 1 10).setV 2 3).setV 15 1) (fun t => t.getV 1 == 0xF9 && t.getV 15 == 0) := by decide
-- ALU-28, ALU-31
theorem test_shl : runs 0x812E (·.setV 1 0x81) (fun t => t.getV 1 == 2 && t.getV 15 == 1) &&
    runs 0x8F2E (·.setV 15 0x81) (·.getV 15 == 2) := by decide
-- ALU-34
theorem test_rnd : runs 0xC20F (·.lineUpRnd [0xB7]) (fun t => t.getV 2 == 7 && t.rndIn == []) := by decide

/-! ### Display -/

-- DRW-14
theorem test_cls : runs 0x0000 (·.setFb (Screen.toggle Screen.blank ⟨63, 31⟩)) (·.fb == Screen.blank) := by decide
-- DRW-3: columns 60 to 63 and 0 to 3 of row 0
theorem test_drw_wrap : runs 0xD011 (fun s => ((s.setIndex 0x300).setV 0 0x3C).storeBytes 0x300 [0xFF])
    (fun t => t.fb[0] == 0xF00000000000000F && t.getV 15 == 0) := by decide
-- DRW-8: (0,0) goes out, (7,0) comes on, (1,0) stays
theorem test_drw_collision :
    runs 0xD011 (fun s => ((s.setIndex 0x300).storeBytes 0x300 [0x81]).setFb (Screen.blank.set 0 0b11))
      (fun t => t.fb[0] == 0b10000010 && t.getV 15 == 1) := by decide

/-! ### Index register and memory -/

-- IDX-2
theorem test_ld_i : runs 0xAFFF (·.setIndex 0x1234) (·.index == 0xFFF) := by decide
-- IDX-6
theorem test_add_i : runs 0xF21E (fun s => (s.setIndex 0xFF01).setV 2 0xFE) (·.index == 0xFFFF) := by decide
-- IDX-5
theorem test_add_i_fault : runs 0xF21E (fun s => (s.setIndex 0xFFFF).setV 2 1)
    (fun t => t.index == 0xFFFF && t.fault == some ⟨.address, 0x200, 65536⟩) := by decide
-- IDX-10
theorem test_ld_f : runs 0xF329 (·.setV 3 0xFF) (·.index == 0x54B) := by decide
/-- `FONT_BASE` is a parameter (R6, R152): glyph 2 of a table at 0x100 is at 0x10A. -/
theorem test_ld_f_font_base : runs 0xF329 (fun s => { s.setV 3 2 with params := { fontBase := 0x100 } }) (·.index == 0x10A) := by
  decide
-- IDX-12
theorem test_ld_b : runs 0xF433 (fun s => (s.setIndex 0x300).setV 4 0x9D)
    (fun t => Memory.readBytes t.params t.mem 0x2FF 5 == [0, 1, 5, 7, 0]) := by decide
-- IDX-16
theorem test_ld_b_fault : runs 0xF433 (fun s => (s.setIndex 0xFFE).setV 4 0x7B)
    (fun t => Memory.read t.params t.mem 0xFFE == 0 && t.fault == some ⟨.address, 0x200, 4096⟩) := by decide
-- IDX-18
theorem test_ld_mem : runs 0xF255 (fun s => (((s.setV 0 0x11).setV 1 0x22).setV 2 0x33).setIndex 0x400)
    (fun t => Memory.readBytes t.params t.mem 0x400 4 == [0x11, 0x22, 0x33, 0] && t.index == 0x400) := by decide
-- IDX-20
theorem test_ld_mem_fault : runs 0xF155 (fun s => (s.setV 0 0xAB).setIndex 0xFFF)
    (fun t => Memory.read t.params t.mem 0xFFF == 0 && t.fault == some ⟨.address, 0x200, 4096⟩) := by decide
-- IDX-23
theorem test_ld_regs : runs 0xF265 (fun s => ((s.setIndex 0x400).storeBytes 0x400 [0x11, 0x22, 0x33, 0x44]).setV 3 0x99)
    (fun t => t.getV 0 == 0x11 && t.getV 2 == 0x33 && t.getV 3 == 0x99 && t.index == 0x400) := by decide
-- IDX-26: the font
theorem test_ld_regs_font : runs 0xFF65 (·.setIndex 0x050)
    (fun t => t.v.toList == [0xF0, 0x90, 0x90, 0x90, 0xF0, 0x20, 0x60, 0x20, 0x20, 0x70] ++
      [0xF0, 0x10, 0xF0, 0x80, 0xF0, 0xF0]) := by decide

/-! ### Timers and key wait -/

-- TMR-1
theorem test_ld_vx_dt : runs 0xF307 (·.setDt 9) (fun t => t.getV 3 == 9 && t.dt == 8) := by decide
-- TMR-3
theorem test_ld_dt : runs 0xF215 (·.setV 2 10) (·.dt == 9) := by decide
-- TMR-7
theorem test_ld_st : runs 0xF218 (fun s => (s.setV 2 0xFF).setDt 1) (fun t => t.st == 254 && t.dt == 0) := by decide
-- KEY-1
theorem test_key_wait : runs 0xF50A (fun s => (s.setDt 5).setSt 5) (fun t => t.pc == 0x200 && t.dt == 5 && t.st == 5) := by
  decide
-- KEY-3
theorem test_key : runs 0xF50A (held [15, 3, 9]) (fun t => t.getV 5 == 3 && t.pc == 0x202) := by decide

/-! ### Unassigned words -/

-- NOP-1
theorem test_sys : runs 0x0123 (·.setDt 3) (fun t => t.pc == 0x202 && t.dt == 2) := by decide
-- NOP-2
theorem test_nop8 : runs 0x812F (fun s => ((s.setV 1 1).setV 2 2).setV 15 3)
    (fun t => t.pc == 0x202 && t.getV 1 == 1 && t.getV 15 == 3) := by decide
-- NOP-4
theorem test_nopE : runs 0xE19F (·.setV 1 0xFF) (fun t => t.pc == 0x202 && t.fault == none) := by decide
-- NOP-7
theorem test_nopF : runs 0xFFFF id (fun t => t.pc == 0x202 && t.fault == none) := by decide

/-! ### Fetch, the latch, the host's operations -/

-- FCH-5: odd PC
theorem test_fetch_odd : ends (step ((atPc 0x201 0x6011).storeBytes 0x203 [0x99])) (fun t => t.getV 0 == 0x11 && t.pc == 0x203) := by
  decide
-- FCH-1
theorem test_fetch_last : ends (step (atPc 0xFFE 0x6011)) (fun t => t.getV 0 == 0x11 && t.pc == 0x1000) := by decide
-- FCH-2
theorem test_fetch_half : ends (step (atPc 0xFFF 0x6011)) (fun t => t.fault == some ⟨.address, 0xFFF, 4096⟩) := by decide
-- FCH-4
theorem test_fetch_outside : ends (step (atPc 0xFFFF 0x6011)) (fun t => t.fault == some ⟨.address, 0xFFFF, 65535⟩) := by decide
-- FLT-3: after reset with nothing loaded the word is 0x0000, a clear
theorem test_reset_step : ends (step State.reset) (fun t => t.pc == 0x202 && t.fault == none) := by decide
/-- Both parameters of a block stand in its memory after reset (R6, R35). -/
theorem test_reset_parameters :
    let p : Params := { fontBase := 432, font := Vector.replicate 80 0x11 }
    Memory.readBytes p (State.resetWith p).mem 431 3 = [0x00, 0x11, 0x11] ∧
    Memory.readBytes p (State.resetWith p).mem 0x1FF 2 = [0x11, 0x00] := by decide
-- LD-3
theorem test_load_twice : let s := ((State.reset.load [0x12, 0x34]).1.load [0x60]).1
    Memory.read s.params s.mem 0x200 = 0x60 ∧ Memory.read s.params s.mem 0x201 = 0x34 := by decide
/-- Writing the byte an unlisted address reads as takes the entry out. -/
theorem test_canonical : Memory.write {} (Memory.write {} [] 0x300 7) 0x300 0 = [] ∧
    Memory.write {} [] 0x050 0xF0 = [] := by decide

/-! ### Witnesses: for each statement with hypotheses, states and operands that meet them -/

theorem test_witness_FieldsOfInstructionWord : (0x1234 : Word) = wordOfBytes 0x12 0x34 := by decide
theorem test_witness_DecodeInvertsEncode : (Instr.sysNnn 0xFFF).wellFormed = true ∧ (Instr.nopF 15 0xFF).wellFormed = true := by
  decide
theorem test_witness_IgnoredBits_family_0 : Bits.op 0x00E0 = Bits.op 0x0AB0 ∧ Bits.op 0x00E0 = 0x0 ∧
    Bits.n 0x00E0 = Bits.n 0x0AB0 := by decide
theorem test_witness_IgnoredBits_families_5_9 : Bits.op 0x5120 = Bits.op 0x512F ∧ Bits.op 0x5120 = 0x5 ∧
    Bits.x 0x5120 = Bits.x 0x512F ∧ Bits.y 0x5120 = Bits.y 0x512F ∧ Bits.op 0x9120 = 0x9 ∧ Bits.op 0x9120 = Bits.op 0x9125 ∧
    Bits.x 0x9120 = Bits.x 0x9125 ∧ Bits.y 0x9120 = Bits.y 0x9125 := by decide
theorem test_witness_IgnoredBits_shifts : Bits.op 0x8126 = Bits.op 0x81F6 ∧ Bits.op 0x8126 = 0x8 ∧ Bits.n 0x8126 = 0x6 ∧
    Bits.n 0x8126 = Bits.n 0x81F6 ∧ Bits.x 0x8126 = Bits.x 0x81F6 ∧ Bits.n 0x812E = 0xE := by decide
theorem test_witness_IgnoredBits_unassigned : Bits.op 0x8128 = Bits.op 0x8FFF ∧ Bits.n 0x8128 ∈ unassigned8 ∧
    Bits.n 0x8FFF ∈ unassigned8 := by decide

theorem test_witness_StepRunsDecodedInstruction : (atPc 0xFFE 0x6011).fault = none ∧ (atPc 0xFFE 0x6011).pc.toNat ≤ 0xFFE ∧
    decodeBytes [Memory.read {} (atPc 0xFFE 0x6011).mem 0xFFE, Memory.read {} (atPc 0xFFE 0x6011).mem 0xFFF] =
      .ok (.ldVxKk 0 0x11, []) := ⟨by decide, by decide, by rfl⟩
theorem test_witness_FetchIsBigEndianOrFaults : (atPc 0xFFE 0).fault = none ∧ (atPc 0xFFE 0).pc.toNat ≤ 4094 ∧
    (atPc 0xFFF 0).fault = none ∧ (atPc 0xFFF 0).pc.toNat = 4095 ∧ (atPc 0x1000 0).fault = none ∧
    4095 < (atPc 0x1000 0).pc.toNat := by decide
theorem test_witness_LatchedFaultHolds : (State.reset.latch .stack 0).fault ≠ none := by decide
theorem test_witness_CycleReturnsStatus_waiting : (atPc 0x200 0xF50A).fault = none ∧
    (atPc 0x200 0xF50A).awaitingKey = true := by decide

/-- A state at `F50A` with no key held. -/
def waitingState : State := atPc 0x200 0xF50A

theorem test_witness_KeyWaitHoldsUntilKey : waitingState.fault = none ∧
    waitingState.fetch.toOption = some (0xF00A#16 + BitVec.ofNat 16 (0x100 * (5 : Reg).val)) ∧
    (∀ k, waitingState.key k = false) ∧ ((held [7, 9] waitingState).keys[7] = true ∧
      ∀ j : Fin 16, j < 7 → (held [7, 9] waitingState).keys[j.val] = false) := by decide
theorem test_witness_KeyWaitHoldsUntilKey_last : (held [15] waitingState).keys[15] = true ∧
    ∀ j : Fin 16, j < 15 → (held [15] waitingState).keys[j.val] = false := by decide
theorem test_witness_FaultChangesOnlyTheLatch : ∃ s t, s.fault = none ∧ step s = .next t ∧ t.fault ≠ none :=
  have ⟨t, h, ht⟩ := of_ends (r := step (atPc 0x200 0x00EE)) (P := fun t => t.fault ≠ none) (by decide)
  ⟨_, t, by decide, h, ht⟩
theorem test_witness_FaultsAreExactlyTheListed : ∃ s t, s.fault = none ∧ s.pc.toNat ≤ 4094 ∧ step s = .next t ∧ t.fault ≠ none :=
  have ⟨t, h, ht⟩ := of_ends (r := step (atPc 0xFFE 0x00EE)) (P := fun t => t.fault ≠ none) (by decide)
  ⟨_, t, by decide, by decide, h, ht⟩
theorem test_witness_FaultsAreExactlyTheListed_none : ∃ s t, s.fault = none ∧ s.pc.toNat ≤ 4094 ∧ step s = .next t ∧
    t.fault = none :=
  have ⟨t, h, ht⟩ := of_ends (r := step (atPc 0xFFE 0x6011)) (P := fun t => t.fault = none) (by decide)
  ⟨_, t, by decide, by decide, h, ht⟩
theorem test_witness_Timers_stand : ∃ s t, step s = .next t ∧ s.awaitingKey = true ∧ t.fault = none :=
  have ⟨t, h, ht⟩ := of_ends (r := step (waitingState.setDt 5)) (P := fun t => t.fault = none) (by decide)
  ⟨_, t, h, by decide, ht⟩

/-- A word fetched, the step it makes, and what holds of the state it ends in. -/
theorem fetched {s : State} {w : Word} {P : State → Prop} [DecidablePred P] (hf : s.fetch = .ok w)
    (h : ends (step s) (fun t => decide (P t)) = true) : ∃ t, s.fetch = .ok w ∧ step s = .next t ∧ P t :=
  have ⟨t, hs, ht⟩ := of_ends h
  ⟨t, hf, hs, ht⟩

theorem test_witness_Timers_tick : ∃ t, (atPc 0x200 0xF218).fetch = .ok 0xF218 ∧ step (atPc 0x200 0xF218) = .next t ∧
    t.fault = none ∧ (atPc 0x200 0xF218).awaitingKey = false := fetched rfl (by decide)
theorem test_witness_ProgramCounter_jump : ∃ t, (atPc 0x200 0xBFFF).fetch = .ok 0xBFFF ∧ step (atPc 0x200 0xBFFF) = .next t ∧
    t.fault = none ∧ (atPc 0x200 0xBFFF).awaitingKey = false := fetched rfl (by decide)
theorem test_witness_ProgramCounter_call : ∃ t, (atPc 0xFFE 0x2ABC).fetch = .ok 0x2ABC ∧ step (atPc 0xFFE 0x2ABC) = .next t ∧
    t.fault = none ∧ (atPc 0xFFE 0x2ABC).awaitingKey = false := fetched rfl (by decide)
theorem test_witness_ProgramCounter_return : ∃ t, ((atPc 0x200 0x00EE).push (by decide) 0x345).fetch = .ok 0x00EE ∧
    step ((atPc 0x200 0x00EE).push (by decide) 0x345) = .next t ∧ t.fault = none ∧
    ((atPc 0x200 0x00EE).push (by decide) 0x345).awaitingKey = false := fetched rfl (by decide)
theorem test_witness_ProgramCounter_skip : ∃ t, (atPc 0xFFE 0x3000).fetch = .ok 0x3000 ∧ step (atPc 0xFFE 0x3000) = .next t ∧
    t.fault = none ∧ (atPc 0xFFE 0x3000).awaitingKey = false ∧ t.pc = 0x1002 := fetched rfl (by decide)
theorem test_witness_ProgramCounter_key_skip : ∃ t, (held [15] ((atPc 0x200 0xE19E).setV 1 15)).fetch = .ok 0xE19E ∧
    step (held [15] ((atPc 0x200 0xE19E).setV 1 15)) = .next t ∧ t.fault = none ∧
    (held [15] ((atPc 0x200 0xE19E).setV 1 15)).awaitingKey = false ∧ t.pc = 0x204 := fetched rfl (by decide)
theorem test_witness_ProgramCounter_other : ∃ t, (atPc 0x200 0x6F01).fetch = .ok 0x6F01 ∧ step (atPc 0x200 0x6F01) = .next t ∧
    t.fault = none ∧ (atPc 0x200 0x6F01).awaitingKey = false := fetched rfl (by decide)
theorem test_witness_ProgramCounter_faulting : ∃ t, (atPc 0x200 0x00EE).fetch = .ok 0x00EE ∧ step (atPc 0x200 0x00EE) = .next t ∧
    t.fault ≠ none := fetched rfl (by decide)
theorem test_witness_ProgramCounter_waiting : ∃ t, waitingState.fetch = .ok 0xF50A ∧ step waitingState = .next t ∧
    waitingState.awaitingKey = true := fetched rfl (by decide)
theorem test_witness_OnlyListed_latched : ∃ t, step (State.reset.latch .stack 0) = .next t ∧
    (State.reset.latch .stack 0).fault = some ⟨.stack, 0x200, 0⟩ := of_ends (by decide)
theorem test_witness_OnlyListed_faulting : ∃ t, step (atPc 0x200 0x00EE) = .next t ∧ t.fault ≠ (atPc 0x200 0x00EE).fault :=
  of_ends (by decide)
theorem test_witness_OnlyListed_fetch : (∃ t, step (atPc 0xFFF 0x6011) = .next t ∧ t.fault ≠ none) ∧
    (atPc 0xFFF 0x6011).fetch = .error 4096 := ⟨of_ends (by decide), rfl⟩
theorem test_witness_OnlyListed_register : ∃ t, (atPc 0x200 0x6301).fetch = .ok 0x6301 ∧ step (atPc 0x200 0x6301) = .next t ∧
    t.getV 3 ≠ (atPc 0x200 0x6301).getV 3 ∧ t.pc ≠ (atPc 0x200 0x6301).pc := fetched rfl (by decide)
theorem test_witness_OnlyListed_loaded : ∃ t, ((atPc 0x200 0xF165).setIndex 0x050).fetch = .ok 0xF165 ∧
    step ((atPc 0x200 0xF165).setIndex 0x050) = .next t ∧ t.getV 0 ≠ (atPc 0x200 0xF165).getV 0 ∧
    t.getV 1 ≠ (atPc 0x200 0xF165).getV 1 := fetched rfl (by decide)
theorem test_witness_OnlyListed_flag : ∃ t, ((atPc 0x200 0x8116).setV 1 1).fetch = .ok 0x8116 ∧
    step ((atPc 0x200 0x8116).setV 1 1) = .next t ∧ t.getV 15 ≠ ((atPc 0x200 0x8116).setV 1 1).getV 15 := fetched rfl (by decide)
theorem test_witness_OnlyListed_pc : ∃ t, (atPc 0x200 0x1234).fetch = .ok 0x1234 ∧ step (atPc 0x200 0x1234) = .next t ∧
    t.pc ≠ (atPc 0x200 0x1234).pc ∧ t.pc ≠ (atPc 0x200 0x1234).pc + 2#16 := fetched rfl (by decide)
theorem test_witness_OnlyListed_timer_writes : (∃ t, ((atPc 0x200 0xF215).setV 2 9).fetch = .ok 0xF215 ∧
    step ((atPc 0x200 0xF215).setV 2 9) = .next t ∧ t.dt ≠ ((atPc 0x200 0xF215).setV 2 9).dt) ∧
    ∃ t, ((atPc 0x200 0xF218).setV 2 9).fetch = .ok 0xF218 ∧
      step ((atPc 0x200 0xF218).setV 2 9) = .next t ∧ t.st ≠ ((atPc 0x200 0xF218).setV 2 9).st :=
  ⟨fetched rfl (by decide), fetched rfl (by decide)⟩
theorem test_witness_OnlyListed_timer_tick : ∃ t, (((atPc 0x200 0x1200).setDt 1).setSt 255).fetch = .ok 0x1200 ∧
    step (((atPc 0x200 0x1200).setDt 1).setSt 255) = .next t ∧ t.dt ≠ 1 ∧ t.st ≠ 255 := fetched rfl (by decide)
theorem test_witness_OnlyListed_index : ∃ t, (atPc 0x200 0xA123).fetch = .ok 0xA123 ∧ step (atPc 0x200 0xA123) = .next t ∧
    t.index ≠ (atPc 0x200 0xA123).index := fetched rfl (by decide)
theorem test_witness_OnlyListed_stack : ∃ t, (atPc 0x200 0x2ABC).fetch = .ok 0x2ABC ∧ step (atPc 0x200 0x2ABC) = .next t ∧
    t.stack ≠ (atPc 0x200 0x2ABC).stack ∧ t.sp ≠ (atPc 0x200 0x2ABC).sp := fetched rfl (by decide)
theorem test_witness_OnlyListed_fb : ∃ t, ((atPc 0x200 0xD011).setIndex 0x050).fetch = .ok 0xD011 ∧
    step ((atPc 0x200 0xD011).setIndex 0x050) = .next t ∧ t.fb ≠ (atPc 0x200 0xD011).fb := fetched rfl (by decide)
theorem test_witness_OnlyListed_mem : ∃ t, ((atPc 0x200 0xF055).setV 0 1).fetch = .ok 0xF055 ∧
    step ((atPc 0x200 0xF055).setV 0 1) = .next t ∧ t.mem ≠ (atPc 0x200 0xF055).mem := fetched rfl (by decide)
theorem test_witness_OnlyListed_rnd : ∃ t, (atPc 0x200 0xC2FF).fetch = .ok 0xC2FF ∧ step (atPc 0x200 0xC2FF) = .next t ∧
    t.draws ≠ (atPc 0x200 0xC2FF).draws := fetched rfl (by decide)
theorem test_witness_FlagRegister_side_effect : ∃ t, ((atPc 0x200 0x8116).setV 1 1).fetch = .ok 0x8116 ∧
    step ((atPc 0x200 0x8116).setV 1 1) = .next t ∧ t.getV 15 ≠ ((atPc 0x200 0x8116).setV 1 1).getV 15 :=
  fetched rfl (by decide)
theorem test_witness_FlagRegister_destination : ∃ t, (atPc 0x200 0x6F01).fetch = .ok 0x6F01 ∧
    step (atPc 0x200 0x6F01) = .next t ∧ t.getV 15 ≠ (atPc 0x200 0x6F01).getV 15 := fetched rfl (by decide)
theorem test_witness_SoundTimerIsNeverRead : ∃ t, step (atPc 0x200 0x6F01) = .next t ∧ t.getV 15 = 1 := of_ends (by decide)

/-- A state that meets the invariant at the bounds of it: `PC` the highest that `Bnnn` reaches, a stack entry of 0x1000. -/
def edgeState : State :=
  { State.reset with pc := 0x10FE#16, stack := State.reset.stack.set 0 0x1000#16, mem := [(0xFFF, 1)] }

theorem test_witness_StepKeepsInvariant : StateInv edgeState ∧ ∃ t, step edgeState = .next t ∧ t.fault ≠ none :=
  ⟨⟨by decide, by decide, by decide, fun r h => by simp [edgeState, State.reset, State.resetWith] at h⟩, of_ends (by decide)⟩
theorem test_witness_StepKeepsInvariant_reset : StateInv State.reset ∧ ∃ t, step State.reset = .next t ∧ t.fault = none :=
  ⟨⟨by decide, by decide, by decide, fun r h => by simp [State.reset, State.resetWith] at h⟩, of_ends (by decide)⟩
theorem test_witness_HostOperationsKeepInvariant : ∃ t status, cycle 0xB7 (atPc 0x200 0xC20F) = .next (t, status) ∧
    status = .done ∧ t.getV 2 = 7 := ⟨_, _, rfl, by decide, by decide⟩
theorem test_witness_ReachableStates : Reachable (State.reset.load [0x12, 0x00]).1 := .load (.first {}) _
theorem test_witness_EqualBytesAreEqualMemories : Memory.wf {} [(0x050, 1), (0xFFF, 1)] = true ∧ Memory.wf {} [] = true := by decide
theorem test_witness_RangeFault_draw : (2 : Nibble) ≠ 0 ∧ 4096 < (State.reset.setIndex 0xFFF).index.toNat + (2 : Nibble).toNat := by
  decide
theorem test_witness_RangeFault_memory : 4096 < (State.reset.setIndex 0xFFE).index.toNat + 3 ∧
    4096 < (State.reset.setIndex 0xFF1).index.toNat + ((15 : Reg).val + 1) ∧
    4096 < (State.reset.setIndex 0x1000).index.toNat + ((0 : Reg).val + 1) := by decide

/-- `F155` in the last place where it can store over the next instruction. -/
def selfModifying : State := (((atPc 0xFFC 0xF155).setIndex 0xFFE).setV 0 0x12).setV 1 0x08

theorem test_witness_StoredCodeIsFetchedNext : Memory.wf selfModifying.params selfModifying.mem = true ∧ selfModifying.fault = none ∧
    1 ≤ (1 : Reg).val ∧ selfModifying.index = selfModifying.pc + 2#16 ∧ selfModifying.pc.toNat + 2 + (1 : Reg).val ≤ 4095 := by
  decide
theorem test_witness_StoreThenLoad : Memory.wf {} (State.reset.setIndex 0xFF0).mem = true ∧
    (State.reset.setIndex 0xFF0).index.toNat + (15 : Reg).val ≤ 4095 ∧
    ∃ t, exec (.ldMemVx 15) (State.reset.setIndex 0xFF0) = .next t ∧ (t.setV 3 9).params = t.params ∧
      (t.setV 3 9).mem = t.mem ∧ (t.setV 3 9).index = t.index :=
  ⟨by decide, by decide, of_ends (P := fun t => (t.setV 3 9).params = t.params ∧ (t.setV 3 9).mem = t.mem ∧
    (t.setV 3 9).index = t.index) (by decide)⟩
theorem test_witness_SkipOnKey : ((State.reset.setV 1 15).getV 1).toNat = (15 : Fin 16).val ∧
    (State.reset.getV 1).toNat = (0 : Fin 16).val := by decide
theorem test_witness_KeyNumberAboveFifteen : 15 < ((State.reset.setV 1 16).getV 1).toNat := by decide
theorem test_witness_Call : State.reset.sp.val < 16 ∧ ({ State.reset with sp := 15 } : State).sp.val < 16 ∧
    ({ State.reset with sp := 16 } : State).sp.val = 16 := by decide
theorem test_witness_Return : (15 : Fin 16).val + 1 = ({ State.reset with sp := 16 } : State).sp.val ∧
    (0 : Fin 16).val + 1 = ({ State.reset with sp := 1 } : State).sp.val ∧ State.reset.sp.val = 0 := by decide
theorem test_witness_Return_after_call : ({ State.reset with sp := 15 } : State).sp.val < 16 ∧
    ∃ t, exec (.callNnn 0x300) { State.reset with sp := 15 } = .next t ∧ t.sp = 16 := ⟨by decide, of_ends (by decide)⟩
theorem test_witness_JumpToSelf : (atPc 0xFFE 0x1FFE).fault = none ∧ (atPc 0xFFE 0x1FFE).pc.toNat < 4096 ∧
    (atPc 0xFFE 0x1FFE).fetch.toOption = some (0x1000#16 + (atPc 0xFFE 0x1FFE).pc) := by decide
theorem test_witness_RandomByte : (atPc 0x200 0xC20F).fault = none ∧
    (atPc 0x200 0xC20F).fetch.toOption = some (BitVec.ofNat 16 (0xC000 + 0x100 * (2 : Reg).val + (0x0F : Byte).toNat)) := by
  decide
theorem test_witness_Draw : (0 : Nibble) = 0 ∧ (State.reset.setIndex 0xFFF).index.toNat + (1 : Nibble).toNat ≤ 4096 ∧
    (State.reset.setIndex 0xFF1).index.toNat + (15 : Nibble).toNat ≤ 4096 := by decide

/-- A state with a one-row sprite of one pixel at the last byte of memory. -/
def spriteState : State := (State.reset.setIndex 0xFFF).storeBytes 0xFFF [0x80]

theorem test_witness_DrawTwice : spriteState.index.toNat + (1 : Nibble).toNat ≤ 4096 ∧
    ∃ t, exec (.drwVxVyN 0 1 1) spriteState = .next t ∧ t.params = spriteState.params ∧ t.mem = spriteState.mem ∧ t.index = spriteState.index ∧
      t.getV 0 = spriteState.getV 0 ∧ t.getV 1 = spriteState.getV 1 :=
  ⟨by decide, of_ends (by decide)⟩
theorem test_witness_DrawTwice_collision : (∃ p, SpriteCovers 0 1 1 spriteState p) ∧
    ∀ p, SpriteCovers 0 1 1 spriteState p → spriteState.fbCell p = 0x00000000#32 :=
  ⟨⟨⟨0, 0⟩, 0, 0, by decide⟩, fun ⟨x, y⟩ _ => by
    rw [fbCell_eq_off]
    exact (by decide : ∀ (y : Fin 32) (x : Fin 64), Screen.lit spriteState.fb ⟨x, y⟩ = false) y x⟩
theorem test_witness_AddToIndex : ((State.reset.setIndex 0xFF01).setV 2 0xFE).index.toNat + 0xFE ≤ 0xFFFF ∧
    0xFFFF < ((State.reset.setIndex 0xFFFF).setV 2 1).index.toNat + (((State.reset.setIndex 0xFFFF).setV 2 1).getV 2).toNat := by
  decide
theorem test_witness_StoreDecimal : indexAddr (State.reset.setIndex 0xFFD) + 2 ≤ 4095 ∧
    4095 < indexAddr (State.reset.setIndex 0xFFE) + 2 ∧ Memory.wf {} (State.reset.setIndex 0xFFD).mem = true := by decide
theorem test_witness_RegisterBlock : indexAddr (State.reset.setIndex 0xFF0) + (15 : Reg).val ≤ 4095 ∧
    4095 < indexAddr (State.reset.setIndex 0xFF1) + (15 : Reg).val ∧ Memory.wf {} (State.reset.setIndex 0xFF0).mem = true := by decide
theorem test_witness_KeyWaitStoresLeastKey : (held [15] State.reset).keys[(15 : Fin 16).val] = true ∧
    (∀ j : Fin 16, j < 15 → (held [15] State.reset).keys[j.val] = false) ∧
    ∀ k : Fin 16, State.reset.keys[k.val] = false := by decide
theorem test_witness_Unassigned : mnemonicOf (.nopE 1 0x00) ∈ ["SYS_nnn", "NOP8", "NOPE", "NOPF"] ∧
    mnemonicOf (decode 0xF066) ∈ ["SYS_nnn", "NOP8", "NOPE", "NOPF"] ∧ (atPc 0xFFE 0xF066).fault = none ∧
    (atPc 0xFFE 0xF066).fetch.toOption = some 0xF066 := by decide
-- LD-1, LD-2
theorem test_witness_Load : (List.replicate 3584 (0xAA : Byte)).length ≤ 3584 ∧ 3584 < (List.replicate 3585 (0xAA : Byte)).length := by
  rw [List.length_replicate, List.length_replicate]
  exact ⟨Nat.le_refl _, Nat.lt_succ_self _⟩

end Sys2Proof.Tests
end

