-- ==== Sys2Proof/Proofs/Encoding.lean ====
section
/-! The fields of an instruction word (30_encoding.md R71): as concatenations of smaller fields, and in the two bytes
fetched. -/

namespace Sys2Proof

namespace Bits

/-- `KK = Y ++ N` (30_encoding.md R71). -/
theorem kk_eq_append (w : Word) : kk w = regBits (y w) ++ n w := by
  apply BitVec.eq_of_toNat_eq
  rw [toNat_append_add, toNat_kk, toNat_regBits, val_y, toNat_n]
  omega

/-- `NNN = X ++ Y ++ N` (30_encoding.md R71). -/
theorem nnn_eq_append (w : Word) : nnn w = regBits (x w) ++ regBits (y w) ++ n w := by
  apply BitVec.eq_of_toNat_eq
  rw [toNat_append_add (regBits (x w) ++ regBits (y w)), toNat_append_add, toNat_nnn, toNat_regBits, toNat_regBits,
    val_x, val_y, toNat_n]
  omega

theorem toNat_op_wordOfBytes (hi lo : Byte) : (op (wordOfBytes hi lo)).toNat = hi.toNat / 16 := by
  have := lo.isLt
  rw [toNat_op, toNat_wordOfBytes]
  omega

theorem val_x_wordOfBytes (hi lo : Byte) : (x (wordOfBytes hi lo)).val = hi.toNat % 16 := by
  have := lo.isLt
  rw [val_x, toNat_wordOfBytes]
  omega

@[simp] theorem kk_wordOfBytes (hi lo : Byte) : kk (wordOfBytes hi lo) = lo := by
  have := lo.isLt
  apply BitVec.eq_of_toNat_eq
  rw [toNat_kk, toNat_wordOfBytes]
  omega

end Bits

/-- Settles O1: each field's value from its bits, the two concatenations, and the fields found in the bytes fetched. -/
theorem fieldsOfInstructionWord : Obligations.FieldsOfInstructionWord := by
  rintro hi lo w rfl
  exact ⟨Bits.toNat_op _, Bits.val_x _, Bits.val_y _, Bits.toNat_n _, Bits.toNat_kk _, Bits.toNat_nnn _,
    Bits.kk_eq_append _, Bits.nnn_eq_append _,
    Bits.toNat_op_wordOfBytes hi lo, Bits.val_x_wordOfBytes hi lo, Bits.kk_wordOfBytes hi lo⟩

end Sys2Proof
end

section
/-! Call and return (41_jump_call.md R111, R112): the words of `00EE`, what a call and a return do on each side of the stack's
bounds, and a return after a call. -/

namespace Sys2Proof

/-- The word `0x0**E` is the encoder's word of format Z with the byte `u` in its ignored bits (30_encoding.md R72). -/
theorem ofNat_eq_wordZ_ret (u : Byte) : BitVec.ofNat 16 (0x000E + 0x10 * u.toNat) = wordZ u 0xE#4 := by
  have hu := u.isLt
  apply BitVec.eq_of_toNat_eq
  rw [BitVec.toNat_ofNat, toNat_wordZ]
  change _ = u.toNat * 16 + 14
  omega

/-- A word of family 0 with low nibble 0xE is a return, whatever its bits 11:4 (30_encoding.md R76). -/
theorem decode_wordZ_ret (u : Byte) : decode (wordZ u 0xE#4) = .ret u := by
  simp [decode, decodeFamily0]

namespace Machine

/-- A call with room on the stack pushes the next instruction's address and goes to its target. -/
theorem exec_callNnn_of_room (nnn : Addr) {s : State} (h : s.sp.val < 16) :
    exec (.callNnn nnn) s = complete ((s.push h s.nextPc).setPc (addrOf nnn)) := dif_pos h

/-- A return with the entry `k` topmost counts it out and goes where it names. -/
theorem exec_ret_of_entry (u : Byte) {s : State} {k : Fin 16} (h : k.val + 1 = s.sp.val) :
    exec (.ret u) s = complete (s.dropTop.setPc s.stack[k.val]) := by
  have hpos : 0 < s.sp.val := by omega
  have htop : s.top hpos = s.stack[k.val] := by simp [State.top, ← h]
  rw [← htop]
  exact dif_pos hpos

/-- A return with an empty stack is a stack fault. -/
theorem exec_ret_of_empty (u : Byte) {s : State} (h : s.sp.val = 0) : exec (.ret u) s = raise .stack 0 s :=
  dif_neg (by omega)

/-- A return changes `SP` and `PC` only; the entry it reads is not cleared. -/
theorem dropTop_setPc_completes (w : Word) (s : State) : CompletesAt w [.sp] s (s.dropTop.setPc w).tick := by
  simp [CompletesAt, TickedFrom, OnlyChanges]

/-- A call leaves its return address in the entry that `SP` named, and counts that entry. -/
theorem callNnn_pushes {nnn : Addr} {s t : State} (h : s.sp.val < 16) (hc : exec (.callNnn nnn) s = .next t) :
    t.stack[s.sp.val] = s.pc + 2#16 ∧ t.sp.val = s.sp.val + 1 := by
  rw [exec_callNnn_of_room nnn h] at hc
  cases hc
  simp

/-- A return that finds the stack as a call left it goes to the instruction after the call, with `SP` as before it. -/
theorem ret_after_callNnn (u : Byte) {nnn : Addr} {s t t' : State} (h : s.sp.val < 16)
    (hc : exec (.callNnn nnn) s = .next t) (hstack : t'.stack = t.stack) (hsp : t'.sp = t.sp) :
    ∃ r, exec (.ret u) t' = .next r ∧ r.pc = s.pc + 2#16 ∧ r.sp = s.sp := by
  obtain ⟨hentry, hcount⟩ := callNnn_pushes h hc
  have htop : (⟨s.sp.val, h⟩ : Fin 16).val + 1 = t'.sp.val := by rw [hsp, hcount]
  refine ⟨_, exec_ret_of_entry u htop, ?_, ?_⟩
  · simpa [hstack] using hentry
  · apply Fin.ext
    simp [← htop]

/-- Settles O35: the decoded word, the two sides of the empty stack, and the return after a call. -/
theorem returnPopsEntry : Obligations.ReturnPopsEntry := by
  intro u s
  refine ⟨?_, fun k hk => ⟨_, exec_ret_of_entry u hk, ?_, dropTop_setPc_completes _ s⟩, fun h => ?_,
    fun nnn t t' => ret_after_callNnn u⟩
  · rw [ofNat_eq_wordZ_ret, decode_wordZ_ret]
  · simp [← hk]
  · rw [exec_ret_of_empty u h, raise_eq]

end Machine

end Sys2Proof
end

section
/-! The immediate add (42_alu.md R133): the words of format XK and those of `7xkk`, and its effect on `V[X]` alone. -/

namespace Sys2Proof

/-- A word of format XK put together by arithmetic is the encoder's (30_encoding.md R72). -/
theorem ofNat_eq_wordXK (op : Nibble) (x : Reg) (kk : Byte) :
    BitVec.ofNat 16 (0x1000 * op.toNat + 0x100 * x.val + kk.toNat) = wordXK op x kk := by
  have hop := op.isLt
  have hx := x.isLt
  have hkk := kk.isLt
  apply BitVec.eq_of_toNat_eq
  rw [BitVec.toNat_ofNat, toNat_wordXK]
  omega

/-- A word of family 7 is an immediate add (30_encoding.md R83). -/
theorem decode_wordXK_addVxKk (x : Reg) (kk : Byte) : decode (wordXK 0x7#4 x kk) = .addVxKk x kk := by
  simp [decode]

namespace Machine

/-- The immediate add writes the 8-bit sum to `V[X]` (42_alu.md R133). -/
theorem exec_addVxKk (x : Reg) (kk : Byte) (s : State) :
    exec (.addVxKk x kk) s = putV x (sum8 (s.getV x) kk) s := rfl

/-- Settles O38: the add is one write of the 8-bit sum to `V[X]`, whose frame `putV_completes` gives. -/
theorem addImmediateHasNoFlag : Obligations.AddImmediateHasNoFlag := by
  intro x kk s
  obtain ⟨t, ht, hsum, hframe⟩ := putV_completes x (sum8 (s.getV x) kk) s
  refine ⟨?_, t, (exec_addVxKk x kk s).trans ht, ?_, hframe⟩
  · exact (congrArg decode (ofNat_eq_wordXK 0x7#4 x kk)).trans (decode_wordXK_addVxKk x kk)
  · rw [hsum]
    exact BitVec.toNat_add (s.getV x) kk

end Machine

end Sys2Proof
end

section
/-! Clearing the screen (43_display.md R140): the words of `00E0`, and its effect on the framebuffer alone. -/

namespace Sys2Proof

/-- The word `0x0**0` is the encoder's word of format Z with the byte `u` in its ignored bits (30_encoding.md R72). -/
theorem ofNat_eq_wordZ_cls (u : Byte) : BitVec.ofNat 16 (0x0000 + 0x10 * u.toNat) = wordZ u 0x0#4 := by
  have hu := u.isLt
  apply BitVec.eq_of_toNat_eq
  rw [BitVec.toNat_ofNat, toNat_wordZ]
  change _ = u.toNat * 16 + 0
  omega

/-- A word of family 0 with low nibble 0 is a clear, whatever its bits 11:4 (30_encoding.md R76). -/
theorem decode_wordZ_cls (u : Byte) : decode (wordZ u 0x0#4) = .cls u := by
  simp [decode, decodeFamily0]

namespace Machine

/-- A clear replaces the framebuffer by the blank one and moves past the instruction (43_display.md R140). -/
theorem exec_cls (u : Byte) (s : State) : exec (.cls u) s = complete (s.setFb Screen.blank).advance := rfl

/-- Every cell of a state whose framebuffer is blank reads as unlit. -/
theorem fbCell_of_blank {s : State} (h : s.fb = Screen.blank) (p : Pixel) : s.fbCell p = 0x00000000#32 := by
  rw [fbCell_eq_off, h]
  exact Screen.lit_blank p

/-- Putting another framebuffer in place and moving past the instruction changes the framebuffer only. -/
theorem setFb_advance_completes (fb : Screen) (s : State) :
    CompletesAt (s.pc + 2#16) [.fb] s (s.setFb fb).advance.tick := by
  simp [CompletesAt, TickedFrom, OnlyChanges]

/-- Settles O45: the word decodes to a clear, whose end state has the blank framebuffer and differs in nothing else. -/
theorem clearScreenUnlightsEveryCell : Obligations.ClearScreenUnlightsEveryCell := by
  intro u s
  refine ⟨?_, _, exec_cls u s, fbCell_of_blank ?_, setFb_advance_completes Screen.blank s⟩
  · rw [ofNat_eq_wordZ_cls, decode_wordZ_cls]
  · simp

end Machine

end Sys2Proof
end

section
/-! Memory transfer (44_index_memory.md R153 to R155): the words of family F, what a store and a load of a block do on each side
of the range check, and the three instructions. -/

namespace Sys2Proof

/-- A word of family F put together by arithmetic decodes by its second byte (30_encoding.md R83). -/
theorem decode_ofNat_familyF (x : Reg) (kk : Byte) :
    decode (BitVec.ofNat 16 (0xF000 + kk.toNat + 0x100 * x.val)) = decodeFamilyF (wordXK 0xF#4 x kk) := by
  have hword := ofNat_eq_wordXK 0xF#4 x kk
  rw [Nat.add_right_comm] at hword
  exact (congrArg decode hword).trans (by simp [decode])

theorem decodeFamilyF_ldBVx (x : Reg) : decodeFamilyF (wordXK 0xF#4 x 0x33#8) = .ldBVx x := by
  simp [decodeFamilyF]

theorem decodeFamilyF_ldMemVx (x : Reg) : decodeFamilyF (wordXK 0xF#4 x 0x55#8) = .ldMemVx x := by
  simp [decodeFamilyF]

theorem decodeFamilyF_ldVxMem (x : Reg) : decodeFamilyF (wordXK 0xF#4 x 0x65#8) = .ldVxMem x := by
  simp [decodeFamilyF]

namespace Machine

/-! ### The meanings as range-checked stores and loads -/

theorem exec_ldBVx (x : Reg) (s : State) :
    exec (.ldBVx x) s =
      withRange (indexAddr s) 3 s (complete (s.storeBytes (indexAddr s) (bcdDigits (s.getV x))).advance) := rfl

theorem exec_ldMemVx (x : Reg) (s : State) :
    exec (.ldMemVx x) s =
      withRange (indexAddr s) (x.val + 1) s
        (complete (s.storeBytes (indexAddr s) ((regsUpTo x).map s.getV)).advance) := rfl

theorem exec_ldVxMem (x : Reg) (s : State) :
    exec (.ldVxMem x) s =
      withRange (indexAddr s) (x.val + 1) s (complete (s.setMany (loadedRegs x s)).advance) := rfl

/-- An access that leaves memory ends in the faulted state of the claims (20_memory.md R53). -/
theorem withRange_faults {a n : Nat} (s : State) (go : Result) (hn : 1 ≤ n) (h : 4096 < a + n) :
    withRange a n s go = .next (faultedState .address (max a 4096) s) :=
  (withRange_of_out s go hn h).trans (raise_eq _ _ s)

/-! ### Stores -/

/-- Storing bytes and moving past the instruction leaves every byte outside them alone. -/
theorem storeBytes_memorySameOutside (a : Nat) (bs : List Byte) (s : State) :
    MemorySameOutside a bs.length s (s.storeBytes a bs).advance.tick :=
  fun _ hb => Memory.read_writeBytes_outside s.mem a bs hb

/-- Storing bytes and moving past the instruction changes memory only. -/
theorem storeBytes_completes (a : Nat) (bs : List Byte) (s : State) :
    CompletesAt (s.pc + 2#16) [.mem] s (s.storeBytes a bs).advance.tick := by
  simp [CompletesAt, TickedFrom, OnlyChanges]

/-- A store of a block in range: each byte is read back at its place, and no other byte and no other part changes. -/
theorem store_in_range {a n : Nat} {bs : List Byte} (s : State) (hlen : bs.length = n) (h : a + n ≤ 4096) :
    ∃ t, withRange a n s (complete (s.storeBytes a bs).advance) = .next t ∧
      (Memory.wf s.params s.mem = true →
        ∀ (i : Nat) (hi : i < bs.length), Memory.read t.params t.mem (a + i) = bs[i]) ∧
      MemorySameOutside a n s t ∧ CompletesAt (s.pc + 2#16) [.mem] s t := by
  subst hlen
  exact ⟨_, withRange_of_in s _ (.inr h), fun hw => Memory.read_writeBytes_inside hw a bs h,
    storeBytes_memorySameOutside a bs s, storeBytes_completes a bs s⟩

/-! ### The decimal digits (44_index_memory.md R153) -/

@[simp] theorem length_bcdDigits (b : Byte) : (bcdDigits b).length = 3 := rfl

/-- Each decimal digit fits in its byte. -/
theorem toNat_bcdDigits (b : Byte) :
    (bcdDigits b)[0].toNat = b.toNat / 100 ∧ (bcdDigits b)[1].toNat = b.toNat / 10 % 10 ∧
      (bcdDigits b)[2].toNat = b.toNat % 10 := by
  have hb := b.isLt
  simp only [bcdDigits, List.getElem_cons_zero, List.getElem_cons_succ, BitVec.toNat_ofNat]
  omega

/-- Settles O51: the store of three digits, each of which fits in its byte, and the fault when a byte does not exist. -/
theorem storeDecimalDigits : Obligations.StoreDecimalDigits := by
  intro x s
  rw [exec_ldBVx]
  refine ⟨(decode_ofNat_familyF x 0x33#8).trans (decodeFamilyF_ldBVx x), fun h => ?_,
    fun h => withRange_faults s _ (by omega) (by omega)⟩
  obtain ⟨t, ht, hread, hframe⟩ := store_in_range s (length_bcdDigits (s.getV x)) (by omega : indexAddr s + 3 ≤ 4096)
  refine ⟨t, ht, fun hw => ?_, hframe⟩
  have hstored (i : Nat) (hi : i < 3) :
      (Memory.read t.params t.mem (indexAddr s + i)).toNat = ((bcdDigits (s.getV x))[i]'hi).toNat :=
    congrArg BitVec.toNat (hread hw i hi)
  obtain ⟨hundreds, tens, ones⟩ := toNat_bcdDigits (s.getV x)
  exact ⟨(hstored 0 (by omega)).trans hundreds, (hstored 1 (by omega)).trans tens, (hstored 2 (by omega)).trans ones⟩

/-! ### The register block (44_index_memory.md R154, R155) -/

/-- Mapped over V0 to VX, as `Fx55` does with the registers' values, the block has register `k`'s value at place `k`. -/
theorem getElem_map_regsUpTo (f : Reg → Byte) {x k : Reg} (hk : k ≤ x) :
    ((regsUpTo x).map f)[k.val]'(by rw [List.length_map, length_regsUpTo]; exact Nat.lt_succ_of_le hk) = f k := by
  rw [List.getElem_map, getElem_regsUpTo x k hk]

/-- Settles O52: the store of the block whose byte `k` is `V[k]`, and the fault when a byte does not exist. -/
theorem storeRegisterBlock : Obligations.StoreRegisterBlock := by
  intro x s
  rw [exec_ldMemVx]
  refine ⟨(decode_ofNat_familyF x 0x55#8).trans (decodeFamilyF_ldMemVx x), fun h => ?_,
    fun h => withRange_faults s _ (by omega) (by omega)⟩
  have hlen : ((regsUpTo x).map s.getV).length = x.val + 1 := by simp
  obtain ⟨t, ht, hread, hframe⟩ := store_in_range s hlen (by omega : indexAddr s + (x.val + 1) ≤ 4096)
  exact ⟨t, ht, fun hw k hk => (hread hw k.val _).trans (getElem_map_regsUpTo s.getV hk), hframe⟩

/-- Loading registers and moving past the instruction changes registers only. -/
theorem setMany_completes (l : List (Reg × Byte)) (s : State) :
    CompletesAt (s.pc + 2#16) ((List.finRange 16).map StatePart.v) s (s.setMany l).advance.tick := by
  simp [CompletesAt, TickedFrom, OnlyChanges]

/-- Settles O53: the load of the block, all of it read before any register is written, and the fault when a byte does not
exist. -/
theorem loadRegisterBlock : Obligations.LoadRegisterBlock := by
  intro x s
  rw [exec_ldVxMem]
  refine ⟨(decode_ofNat_familyF x 0x65#8).trans (decodeFamilyF_ldVxMem x), fun h => ?_,
    fun h => withRange_faults s _ (by omega) (by unfold indexAddr; omega)⟩
  have hin : indexAddr s + (x.val + 1) ≤ 4096 := by unfold indexAddr; omega
  refine ⟨_, withRange_of_in s _ (.inr hin), fun k hk => ?_, fun k hk => ?_, setMany_completes _ s⟩
  · exact (getV_setMany_loadedRegs x k s).trans (if_pos hk)
  · exact (getV_setMany_loadedRegs x k s).trans (if_neg (not_le.mpr hk))

end Machine

end Sys2Proof
end

section
/-! The unassigned words (46_unassigned.md R170): their four instructions only move past themselves, and a cycle that fetches
one ends with status `Done`. -/

namespace Sys2Proof.Machine

/-- The four instructions with no handler. -/
theorem cases_of_mnemonicOf_unassigned {i : Instr} (h : mnemonicOf i ∈ ["SYS_nnn", "NOP8", "NOPE", "NOPF"]) :
    (∃ nnn, i = .sysNnn nnn) ∨ (∃ x y n, i = .nop8 x y n) ∨ (∃ x kk, i = .nopE x kk) ∨ (∃ x kk, i = .nopF x kk) := by
  cases i with
  | sysNnn nnn => exact .inl ⟨nnn, rfl⟩
  | nop8 x y n => exact .inr (.inl ⟨x, y, n, rfl⟩)
  | nopE x kk => exact .inr (.inr (.inl ⟨x, kk, rfl⟩))
  | nopF x kk => exact .inr (.inr (.inr ⟨x, kk, rfl⟩))
  | _ => simp [mnemonicOf] at h

/-- An instruction with no handler completes with nothing done but the move past it, and is no key wait. -/
theorem unassigned_only_advances {i : Instr} (h : mnemonicOf i ∈ ["SYS_nnn", "NOP8", "NOPE", "NOPF"]) :
    (∀ s, exec i s = complete s.advance) ∧ isKeyWait i = false := by
  obtain ⟨_, rfl⟩ | ⟨_, _, _, rfl⟩ | ⟨_, _, rfl⟩ | ⟨_, _, rfl⟩ := cases_of_mnemonicOf_unassigned h
  all_goals exact ⟨fun _ => rfl, rfl⟩

/-- The byte given to a cycle takes no part in finding its instruction: the cycle runs the word that stands at `PC`. -/
theorem cycle_of_fetch {rnd : Byte} {w : Word} {s t : State} (hfault : s.fault = none) (hfetch : s.fetch = .ok w)
    (h : exec (decode w) (s.giveRnd rnd) = .next t) : cycle rnd s = .next (t.restoreRnd s, s.cycleStatus t) := by
  have hgiven : (s.giveRnd rnd).fetch = .ok w := (fetch_congr rfl rfl rfl).trans hfetch
  exact cycle_of_step ((step_of_fetch (s := s.giveRnd rnd) hfault hgiven).trans h)

/-- The status is `Done` when the word fetched is no key wait and no fault is latched at the end (30_encoding.md R82). -/
theorem cycleStatus_done {w : Word} {s t : State} (hfetch : s.fetch = .ok w) (hwait : isKeyWait (decode w) = false)
    (hfault : t.fault = none) : s.cycleStatus t = .done := by
  simp [State.cycleStatus, hfault, awaitingKey_of_fetch hfetch, hwait]

/-- Settles O57: the instruction is the plain move past it, and its cycle is that move with the driver's random bytes put back,
in a state that neither waits nor faults. -/
theorem unassignedWordsDoNothing : Obligations.UnassignedWordsDoNothing := by
  refine ⟨fun i s h => ⟨_, (unassigned_only_advances h).1 s, advance_completes s⟩, fun rnd w s hfault hfetch h => ?_⟩
  obtain ⟨hexec, hwait⟩ := unassigned_only_advances h
  have hcycle := cycle_of_fetch hfault hfetch (hexec (s.giveRnd rnd))
  have hdone : s.cycleStatus (s.giveRnd rnd).advance.tick = .done := cycleStatus_done hfetch hwait hfault
  have hrestored : (s.giveRnd rnd).advance.tick.restoreRnd s = s.advance.tick := rfl
  rw [hdone, hrestored] at hcycle
  exact ⟨_, hcycle, advance_completes s⟩

end Sys2Proof.Machine
end

section
/-! The decoder and the encoder are inverse (30_encoding.md R71 to R83): a word put together from its own fields, the well-formed
instructions of each family, and the two round trips. -/

namespace Sys2Proof

/-! ### A word is made of its fields -/

/-- A word put together from its own fields, in formats A, XK and XYN. -/
theorem wordA_of_fields {w : Word} {op : Nibble} (hop : Bits.op w = op) : wordA op (Bits.nnn w) = w := by
  subst hop
  apply BitVec.eq_of_toNat_eq
  rw [toNat_wordA, Bits.toNat_op, Bits.toNat_nnn]
  omega

theorem wordXK_of_fields {w : Word} {op : Nibble} {kk : Byte} (hop : Bits.op w = op) (hkk : Bits.kk w = kk) :
    wordXK op (Bits.x w) kk = w := by
  subst hop hkk
  apply BitVec.eq_of_toNat_eq
  rw [toNat_wordXK, Bits.toNat_op, Bits.val_x, Bits.toNat_kk]
  omega

theorem wordXYN_of_fields {w : Word} {op n : Nibble} (hop : Bits.op w = op) (hn : Bits.n w = n) :
    wordXYN op (Bits.x w) (Bits.y w) n = w := by
  subst hop hn
  apply BitVec.eq_of_toNat_eq
  rw [toNat_wordXYN, Bits.toNat_op, Bits.val_x, Bits.val_y, Bits.toNat_n]
  omega

/-- And in format Z, whose family is 0. -/
theorem wordZ_of_fields {w : Word} {n : Nibble} (hop : Bits.op w = 0x0#4) (hn : Bits.n w = n) :
    wordZ (Bits.mid w) n = w := by
  have hfamily := congrArg BitVec.toNat hop
  rw [Bits.toNat_op] at hfamily
  subst hn
  apply BitVec.eq_of_toNat_eq
  rw [toNat_wordZ, Bits.toNat_mid, Bits.toNat_n]
  change _ / 4096 = 0 at hfamily
  omega

/-! ### The dispatch of each family, in both directions -/

/-- Family 0 with a low nibble that is neither 0 nor E is a no-op (46_unassigned.md R171). -/
theorem decodeFamily0_unassigned {w : Word} (h0 : Bits.n w ≠ 0x0#4) (hE : Bits.n w ≠ 0xE#4) :
    decodeFamily0 w = .sysNnn (Bits.nnn w) := by
  unfold decodeFamily0
  split
  · exact absurd (BitVec.eq_of_toNat_eq ‹_›) h0
  · exact absurd (BitVec.eq_of_toNat_eq ‹_›) hE
  · rfl

/-- Family 8 with an unassigned low nibble is a no-op (46_unassigned.md R172). -/
theorem decodeFamily8_unassigned {w : Word} (h : Bits.n w ∈ unassigned8) :
    decodeFamily8 w = .nop8 (Bits.x w) (Bits.y w) (Bits.n w) := by
  have hn := List.mem_map_of_mem (f := BitVec.toNat) h
  unfold decodeFamily8
  split
  case h_10 => rfl
  all_goals
    rename_i heq
    rw [heq] at hn
    exact absurd hn (by decide)

/-- Family E with an unassigned low byte is a no-op (46_unassigned.md R173). -/
theorem decodeFamilyE_unassigned {w : Word} (h : Bits.kk w ∉ assignedE) :
    decodeFamilyE w = .nopE (Bits.x w) (Bits.kk w) := by
  simp only [assignedE, List.mem_cons, List.not_mem_nil, or_false, not_or, BitVec.ofNat_eq_ofNat] at h
  simp [decodeFamilyE, h]

/-- Family F with an unassigned low byte is a no-op (46_unassigned.md R174). -/
theorem decodeFamilyF_unassigned {w : Word} (h : Bits.kk w ∉ assignedF) :
    decodeFamilyF w = .nopF (Bits.x w) (Bits.kk w) := by
  simp only [assignedF, List.mem_cons, List.not_mem_nil, or_false, not_or, BitVec.ofNat_eq_ofNat] at h
  simp [decodeFamilyF, h]

/-- The families that dispatch a second time (30_encoding.md R75). -/
theorem decode_family0 {w : Word} (h : Bits.op w = 0x0#4) : decode w = decodeFamily0 w := by simp [decode, h]
theorem decode_family8 {w : Word} (h : Bits.op w = 0x8#4) : decode w = decodeFamily8 w := by simp [decode, h]
theorem decode_familyE {w : Word} (h : Bits.op w = 0xE#4) : decode w = decodeFamilyE w := by simp [decode, h]
theorem decode_familyF {w : Word} (h : Bits.op w = 0xF#4) : decode w = decodeFamilyF w := by simp [decode, h]

/-! ### The round trips -/

/-- A well-formed instruction is what its word decodes to: the no-ops by what their sub-opcode is not, the others by their row. -/
theorem decode_encode {i : Instr} (h : i.wellFormed = true) : decode (encode i) = i := by
  cases i
  case sysNnn nnn =>
    have hn : nnn.extractLsb' 0 4 ≠ 0x0#4 ∧ nnn.extractLsb' 0 4 ≠ 0xE#4 := by simpa [Instr.wellFormed] using h
    have hfamily := decodeFamily0_unassigned (w := wordA 0x0#4 nnn) (by simpa using hn.1) (by simpa using hn.2)
    simpa [decode, encode] using hfamily
  case nop8 x y n =>
    have hfamily := decodeFamily8_unassigned (w := wordXYN 0x8#4 x y n) (by simpa [Instr.wellFormed] using h)
    simpa [decode, encode] using hfamily
  case nopE x kk =>
    have hfamily := decodeFamilyE_unassigned (w := wordXK 0xE#4 x kk) (by simpa [Instr.wellFormed] using h)
    simpa [decode, encode] using hfamily
  case nopF x kk =>
    have hfamily := decodeFamilyF_unassigned (w := wordXK 0xF#4 x kk) (by simpa [Instr.wellFormed] using h)
    simpa [decode, encode] using hfamily
  all_goals simp [decode, encode, decodeFamily0, decodeFamily8, decodeFamilyE, decodeFamilyF]

/-- Settles O2: the round trip of words, and the two bytes of a word put together again. -/
theorem decodeInvertsEncode : Obligations.DecodeInvertsEncode := by
  intro i h
  refine ⟨decode_encode h, ?_⟩
  rw [encodeBytes, bytesOfWord, decodeBytes_pair, wordOfBytes_bytesOfWord, decode_encode h]

/-- An instruction term that stands for the word. -/
def Represents (i : Instr) (w : Word) : Prop := i.wellFormed = true ∧ encode i = w

theorem decodeFamily0_represents {w : Word} (hop : Bits.op w = 0x0#4) : Represents (decodeFamily0 w) w := by
  unfold decodeFamily0
  split
  case h_1 hn | h_2 hn => exact ⟨rfl, wordZ_of_fields hop (BitVec.eq_of_toNat_eq hn)⟩
  case h_3 h0 hE =>
    refine ⟨?_, wordA_of_fields hop⟩
    have hn : (Bits.nnn w).extractLsb' 0 4 = Bits.n w := by rw [← Bits.n_wordA 0x0#4, wordA_of_fields hop]
    simp only [Instr.wellFormed, hn, Bool.and_eq_true, bne_iff_ne, ne_eq]
    exact ⟨fun h => h0 (congrArg BitVec.toNat h), fun h => hE (congrArg BitVec.toNat h)⟩

theorem decodeFamily8_represents {w : Word} (hop : Bits.op w = 0x8#4) : Represents (decodeFamily8 w) w := by
  unfold decodeFamily8
  split
  case h_10 =>
    refine ⟨?_, wordXYN_of_fields hop rfl⟩
    have hall : ∀ n : Nibble, n.toNat ∉ [0, 1, 2, 3, 4, 5, 6, 7, 14] → unassigned8.contains n = true := by decide
    apply hall
    simp only [imp_false, List.mem_cons, List.not_mem_nil, or_false] at *
    omega
  all_goals exact ⟨rfl, wordXYN_of_fields hop (BitVec.eq_of_toNat_eq ‹_›)⟩

theorem decodeFamilyE_represents {w : Word} (hop : Bits.op w = 0xE#4) : Represents (decodeFamilyE w) w := by
  unfold decodeFamilyE
  split_ifs
  case neg => exact ⟨by simp [Instr.wellFormed, assignedE, *], wordXK_of_fields hop rfl⟩
  all_goals exact ⟨rfl, wordXK_of_fields hop ‹_›⟩

theorem decodeFamilyF_represents {w : Word} (hop : Bits.op w = 0xF#4) : Represents (decodeFamilyF w) w := by
  unfold decodeFamilyF
  split_ifs
  case neg => exact ⟨by simp [Instr.wellFormed, assignedF, *], wordXK_of_fields hop rfl⟩
  all_goals exact ⟨rfl, wordXK_of_fields hop ‹_›⟩

/-- Every word decodes to an instruction that stands for it: by its family. -/
theorem decode_represents (w : Word) : Represents (decode w) w := by
  unfold decode
  split
  case h_1 hop => exact decodeFamily0_represents (BitVec.eq_of_toNat_eq hop)
  case h_9 hop => exact decodeFamily8_represents (BitVec.eq_of_toNat_eq hop)
  case h_15 hop => exact decodeFamilyE_represents (BitVec.eq_of_toNat_eq hop)
  case h_16 =>
    have hop : (Bits.op w).toNat = 15 := by
      have hlt := (Bits.op w).isLt
      simp only [imp_false] at *
      omega
    exact decodeFamilyF_represents (BitVec.eq_of_toNat_eq hop)
  case h_6 hop | h_10 hop | h_14 hop => exact ⟨rfl, wordXYN_of_fields (BitVec.eq_of_toNat_eq hop) rfl⟩
  case h_2 hop | h_3 hop | h_11 hop | h_12 hop => exact ⟨rfl, wordA_of_fields (BitVec.eq_of_toNat_eq hop)⟩
  all_goals exact ⟨rfl, wordXK_of_fields (BitVec.eq_of_toNat_eq ‹_›) rfl⟩

/-- Settles O3: the word stood for is the encoding of the instruction decoded. -/
theorem encodeInvertsDecode : Obligations.EncodeInvertsDecode := decode_represents

/-- Every word is the word of a well-formed instruction, which it decodes to: so a claim about all words is one about the
instructions. -/
theorem exists_encode (w : Word) : ∃ i, i.wellFormed = true ∧ w = encode i ∧ decode w = i := by
  obtain ⟨hwf, hw⟩ := decode_represents w
  exact ⟨decode w, hwf, hw.symm, rfl⟩

/-- A word written as a number is decoded by finding the instruction that has this word. -/
theorem decode_ofNat {i : Instr} {n : Nat} (hwf : i.wellFormed = true) (h : (encode i).toNat = n) :
    decode (BitVec.ofNat 16 n) = i := by
  rw [← h, BitVec.ofNat_toNat, BitVec.setWidth_eq, decode_encode hwf]

/-- Settles O7: the decoder computes on each of the 38 words. -/
theorem writtenWordsDecode : Obligations.WrittenWordsDecode := by
  unfold Obligations.WrittenWordsDecode
  decide

end Sys2Proof
end

section
/-! The opcode map (30_encoding.md R83): what a row's mask keeps of a word, the row of each instruction, the rows' disjointness,
the unassigned spaces (46_unassigned.md) and the ignored bits. -/

namespace Sys2Proof.Machine

open Sys2Proof.Laws

/-! ### Masks -/

/-- A mask acts on each field of a word apart. -/
theorem wordA_and (op m : Nibble) (nnn k : Addr) : wordA op nnn &&& (m ++ k) = wordA (op &&& m) (nnn &&& k) :=
  BitVec.and_append

theorem wordXK_and (op mop mx : Nibble) (x : Reg) (kk mkk : Byte) :
    wordXK op x kk &&& (mop ++ mx ++ mkk) = (op &&& mop) ++ (regBits x &&& mx) ++ (kk &&& mkk) :=
  (BitVec.and_append (x₁ := op ++ regBits x) (x₂ := mop ++ mx)).trans (by rw [BitVec.and_append])

theorem wordXYN_and (op mop mx my mn : Nibble) (x y : Reg) (n : Nibble) :
    wordXYN op x y n &&& (mop ++ mx ++ my ++ mn) =
      (op &&& mop) ++ (regBits x &&& mx) ++ (regBits y &&& my) ++ (n &&& mn) :=
  (BitVec.and_append (x₁ := op ++ regBits x ++ regBits y) (x₂ := mop ++ mx ++ my)).trans
    (by rw [BitVec.and_append, BitVec.and_append])

/-- The three masks of the opcode map keep `OP`; `OP` and `N`; `OP` and `KK`. -/
theorem and_maskOp (w : Word) : w &&& 0xF000#16 = Bits.op w ++ 0x000#12 := by
  have hmask := wordA_and (Bits.op w) 0xF#4 (Bits.nnn w) 0x000#12
  rw [wordA_of_fields rfl, BitVec.and_zero] at hmask
  exact hmask.trans (congrArg (· ++ 0x000#12) BitVec.and_allOnes)

theorem and_maskOpN (w : Word) : w &&& 0xF00F#16 = Bits.op w ++ 0x0#4 ++ 0x0#4 ++ Bits.n w := by
  have hmask := wordXYN_and (Bits.op w) 0xF#4 0x0#4 0x0#4 0xF#4 (Bits.x w) (Bits.y w) (Bits.n w)
  rw [wordXYN_of_fields rfl rfl, BitVec.and_zero, BitVec.and_zero] at hmask
  exact hmask.trans (congrArg₂ (· ++ 0x0#4 ++ 0x0#4 ++ ·) BitVec.and_allOnes BitVec.and_allOnes)

theorem and_maskOpKk (w : Word) : w &&& 0xF0FF#16 = Bits.op w ++ 0x0#4 ++ Bits.kk w := by
  have hmask := wordXK_and (Bits.op w) 0xF#4 0x0#4 (Bits.x w) (Bits.kk w) 0xFF#8
  rw [wordXK_of_fields rfl rfl, BitVec.and_zero] at hmask
  exact hmask.trans (congrArg₂ (· ++ 0x0#4 ++ ·) BitVec.and_allOnes BitVec.and_allOnes)

/-! ### The row of an instruction -/

/-- The mask that covers the fields which a row fixes. -/
def maskOf (b : RowBits) : Word :=
  match b.n, b.kk with
  | none, none => 0xF000#16
  | some _, _ => 0xF00F#16
  | none, some _ => 0xF0FF#16

/-- The row of an instruction: the bits of its word under the mask of its fixed fields. -/
def rowOf (i : Instr) : OpcodeRow where
  mask := maskOf (rowBits i)
  mtch := encode i &&& maskOf (rowBits i)
  mnemonic := mnemonicOf i

theorem rowOf_selectedBy (i : Instr) : (rowOf i).selectedBy (encode i) = true := beq_self_eq_true _

/-- The row of an instruction stands in the opcode map: a no-op's among the last four rows, any other among the first 34. -/
theorem rowOf_mem (i : Instr) : rowOf i ∈ (if 34 ≤ i.ctorIdx then unassignedRows else assignedRows) := by
  cases i
  all_goals
    simp [rowOf, maskOf, rowBits, mnemonicOf, and_maskOp, and_maskOpN, and_maskOpKk, encode, assignedRows, unassignedRows,
      Instr.ctorIdx, -String.reduceEq]

/-! ### Disjointness -/

/-- Two rows that differ in a bit which both masks cover select no word in common. -/
theorem not_both_selected {r q : OpcodeRow} (h : r.mask &&& q.mask &&& (r.mtch ^^^ q.mtch) ≠ 0x0000#16) (w : Word) :
    ¬ (r.selectedBy w = true ∧ q.selectedBy w = true) := by
  simp only [OpcodeRow.selectedBy, beq_iff_eq]
  rintro ⟨hr, hq⟩
  apply h
  rw [← hr, ← hq]
  ext i hi
  simp only [BitVec.getElem_and, BitVec.getElem_xor, BitVec.getElem_zero]
  cases w[i] <;> cases r.mask[i] <;> cases q.mask[i] <;> rfl

/-- Settles O5: any two rows differ in a bit that both masks cover. -/
theorem assignedRowsAreDisjoint : Obligations.AssignedRowsAreDisjoint := by
  have hdiffer : assignedRows.Pairwise fun r q => r.mask &&& q.mask &&& (r.mtch ^^^ q.mtch) ≠ 0x0000#16 := by decide
  exact hdiffer.imp not_both_selected

/-- The rows of families 0, 8, E and F among the assigned ones fix a sub-opcode that the family assigns. -/
theorem assignedRows_subopcode : ∀ r ∈ assignedRows, Bits.op r.mask = 0xF#4 ∧
    (Bits.op r.mtch = 0x0#4 → Bits.n r.mask = 0xF#4 ∧ Bits.n r.mtch ∈ [0x0#4, 0xE#4]) ∧
    (Bits.op r.mtch = 0x8#4 → Bits.n r.mask = 0xF#4 ∧ Bits.n r.mtch ∉ unassigned8) ∧
    (Bits.op r.mtch = 0xE#4 → Bits.kk r.mask = 0xFF#8 ∧ Bits.kk r.mtch ∈ assignedE) ∧
    (Bits.op r.mtch = 0xF#4 → Bits.kk r.mask = 0xFF#8 ∧ Bits.kk r.mtch ∈ assignedF) := by decide

/-- A word that selects a row agrees with the row's match in each field that the mask covers whole. -/
theorem field_of_selectedBy {r : OpcodeRow} {w : Word} (h : r.selectedBy w = true) (start len : Nat)
    (hmask : r.mask.extractLsb' start len = BitVec.allOnes len) :
    w.extractLsb' start len = r.mtch.extractLsb' start len := by
  rw [OpcodeRow.selectedBy, beq_iff_eq] at h
  rw [← h, BitVec.extractLsb'_and, hmask, BitVec.and_allOnes]

/-- A word of families 0, 8, E or F that selects an assigned row has a sub-opcode that the family assigns. -/
theorem subopcode_of_selectedBy {r : OpcodeRow} {w : Word} (hr : r ∈ assignedRows) (h : r.selectedBy w = true) :
    (Bits.op w = 0x0#4 → Bits.n w ∈ [0x0#4, 0xE#4]) ∧ (Bits.op w = 0x8#4 → Bits.n w ∉ unassigned8) ∧
    (Bits.op w = 0xE#4 → Bits.kk w ∈ assignedE) ∧ (Bits.op w = 0xF#4 → Bits.kk w ∈ assignedF) := by
  obtain ⟨hmask, h0, h8, hE, hF⟩ := assignedRows_subopcode r hr
  have hop : Bits.op w = Bits.op r.mtch := field_of_selectedBy h 12 4 hmask
  have hn : Bits.n r.mask = 0xF#4 → Bits.n w = Bits.n r.mtch := field_of_selectedBy h 0 4
  have hkk : Bits.kk r.mask = 0xFF#8 → Bits.kk w = Bits.kk r.mtch := field_of_selectedBy h 0 8
  rw [hop]
  exact ⟨fun e => hn (h0 e).1 ▸ (h0 e).2, fun e => hn (h8 e).1 ▸ (h8 e).2, fun e => hkk (hE e).1 ▸ (hE e).2,
    fun e => hkk (hF e).1 ▸ (hF e).2⟩

/-! ### The first matching row -/

/-- The unassigned rows are disjoint too: each has a family of its own. -/
theorem unassignedRows_disjoint :
    unassignedRows.Pairwise fun r q => ∀ w : Word, ¬ (r.selectedBy w = true ∧ q.selectedBy w = true) := by
  have hdiffer : unassignedRows.Pairwise fun r q => r.mask &&& q.mask &&& (r.mtch ^^^ q.mtch) ≠ 0x0000#16 := by decide
  exact hdiffer.imp not_both_selected

/-- Among disjoint rows the first one selected is the only one. -/
theorem find?_selectedBy {rows : List OpcodeRow} {r : OpcodeRow} {w : Word}
    (hdisjoint : rows.Pairwise fun r q => ∀ w : Word, ¬ (r.selectedBy w = true ∧ q.selectedBy w = true))
    (hr : r ∈ rows) (h : r.selectedBy w = true) : (rows.find? fun q => q.selectedBy w) = some r := by
  induction rows with
  | nil => simp at hr
  | cons q rows ih =>
    obtain ⟨hq, hrest⟩ := List.pairwise_cons.mp hdisjoint
    rcases List.mem_cons.mp hr with rfl | hmem
    · exact List.find?_cons_of_pos h
    · have hskip := List.find?_cons_of_neg (p := fun q : OpcodeRow => q.selectedBy w) (l := rows) fun e => hq r hmem w ⟨e, h⟩
      exact hskip.trans (ih hrest hmem)

/-- A well-formed instruction has an assigned row, or else an unassigned one and its word selects no assigned row. -/
theorem rowOf_cases {i : Instr} (h : i.wellFormed = true) :
    rowOf i ∈ assignedRows ∨ rowOf i ∈ unassignedRows ∧ ∀ r ∈ assignedRows, ¬ r.selectedBy (encode i) = true := by
  have hrow := rowOf_mem i
  cases i
  case sysNnn nnn =>
    refine .inr ⟨hrow, fun r hr hs => ?_⟩
    have hsub := (subopcode_of_selectedBy hr hs).1
    simp_all [encode, Instr.wellFormed]
  case nop8 x y n =>
    refine .inr ⟨hrow, fun r hr hs => ?_⟩
    have hsub := (subopcode_of_selectedBy hr hs).2.1
    simp_all [encode, Instr.wellFormed]
  case nopE x kk =>
    refine .inr ⟨hrow, fun r hr hs => ?_⟩
    have hsub := (subopcode_of_selectedBy hr hs).2.2.1
    simp_all [encode, Instr.wellFormed]
  case nopF x kk =>
    refine .inr ⟨hrow, fun r hr hs => ?_⟩
    have hsub := (subopcode_of_selectedBy hr hs).2.2.2
    simp_all [encode, Instr.wellFormed]
  all_goals exact .inl hrow

/-- Settles O4: the instruction's own row is selected, and no earlier one is. -/
theorem decoderTakesFirstMatchingRow : Obligations.DecoderTakesFirstMatchingRow := by
  intro w
  obtain ⟨i, hwf, rfl, hdecode⟩ := exists_encode w
  have hselected := rowOf_selectedBy i
  have hfind : ((assignedRows ++ unassignedRows).find? fun r => r.selectedBy (encode i)) = some (rowOf i) := by
    rw [List.find?_append]
    rcases rowOf_cases hwf with hmem | ⟨hmem, hnone⟩
    · rw [find?_selectedBy assignedRowsAreDisjoint hmem hselected, Option.some_or]
    · rw [List.find?_eq_none.mpr hnone, Option.none_or]
      exact find?_selectedBy unassignedRows_disjoint hmem hselected
  rw [hfind, hdecode]
  rfl

/-! ### The unassigned spaces -/

/-- The instruction that a mnemonic of the unassigned spaces names. -/
theorem mnemonicOf_unassigned (i : Instr) :
    (mnemonicOf i = "SYS_nnn" → ∃ nnn, i = .sysNnn nnn) ∧ (mnemonicOf i = "NOP8" → ∃ x y n, i = .nop8 x y n) ∧
    (mnemonicOf i = "NOPE" → ∃ x kk, i = .nopE x kk) ∧ (mnemonicOf i = "NOPF" → ∃ x kk, i = .nopF x kk) := by
  cases i
  all_goals simp [mnemonicOf]

theorem mnemonicOf_decode_eq_sysNnn (w : Word) :
    mnemonicOf (decode w) = "SYS_nnn" ↔ Bits.op w = 0x0#4 ∧ ¬ (Bits.n w = 0x0#4 ∨ Bits.n w = 0xE#4) := by
  constructor
  · intro h
    obtain ⟨i, hwf, rfl, hdecode⟩ := exists_encode w
    obtain ⟨nnn, rfl⟩ := (mnemonicOf_unassigned i).1 (hdecode ▸ h)
    simpa [encode, Instr.wellFormed] using hwf
  · rintro ⟨hop, hn⟩
    rw [decode_family0 hop, decodeFamily0_unassigned (fun e => hn (.inl e)) (fun e => hn (.inr e))]
    rfl

theorem mnemonicOf_decode_eq_nop8 (w : Word) :
    mnemonicOf (decode w) = "NOP8" ↔ Bits.op w = 0x8#4 ∧ Bits.n w ∈ unassigned8 := by
  constructor
  · intro h
    obtain ⟨i, hwf, rfl, hdecode⟩ := exists_encode w
    obtain ⟨x, y, n, rfl⟩ := (mnemonicOf_unassigned i).2.1 (hdecode ▸ h)
    simpa [encode, Instr.wellFormed] using hwf
  · rintro ⟨hop, hn⟩
    rw [decode_family8 hop, decodeFamily8_unassigned hn]
    rfl

theorem mnemonicOf_decode_eq_nopE (w : Word) :
    mnemonicOf (decode w) = "NOPE" ↔ Bits.op w = 0xE#4 ∧ Bits.kk w ∉ assignedE := by
  constructor
  · intro h
    obtain ⟨i, hwf, rfl, hdecode⟩ := exists_encode w
    obtain ⟨x, kk, rfl⟩ := (mnemonicOf_unassigned i).2.2.1 (hdecode ▸ h)
    simpa [encode, Instr.wellFormed] using hwf
  · rintro ⟨hop, hkk⟩
    rw [decode_familyE hop, decodeFamilyE_unassigned hkk]
    rfl

theorem mnemonicOf_decode_eq_nopF (w : Word) :
    mnemonicOf (decode w) = "NOPF" ↔ Bits.op w = 0xF#4 ∧ Bits.kk w ∉ assignedF := by
  constructor
  · intro h
    obtain ⟨i, hwf, rfl, hdecode⟩ := exists_encode w
    obtain ⟨x, kk, rfl⟩ := (mnemonicOf_unassigned i).2.2.2 (hdecode ▸ h)
    simpa [encode, Instr.wellFormed] using hwf
  · rintro ⟨hop, hkk⟩
    rw [decode_familyF hop, decodeFamilyF_unassigned hkk]
    rfl

/-- Settles O58: each space by the fields that its words must have, as numbers. -/
theorem unassignedSpaces : Obligations.UnassignedSpaces := by
  intro w
  rw [mnemonicOf_decode_eq_sysNnn, mnemonicOf_decode_eq_nop8, mnemonicOf_decode_eq_nopE, mnemonicOf_decode_eq_nopF]
  simp [unassigned8, assignedE, assignedF, BitVec.toNat_eq]

/-! ### Ignored bits -/

/-- Two words of family 0 with the same low nibble mean the same (30_encoding.md R76). -/
theorem exec_decodeFamily0_congr {w w' : Word} (h : Bits.n w = Bits.n w') (s : State) :
    exec (decodeFamily0 w) s = exec (decodeFamily0 w') s := by
  unfold decodeFamily0
  rw [h]
  split <;> rfl

/-- Two unassigned words of family 8 mean the same: nothing but the move past them. -/
theorem exec_decodeFamily8_unassigned {w : Word} (h : Bits.n w ∈ unassigned8) (s : State) :
    exec (decodeFamily8 w) s = complete s.advance := by
  rw [decodeFamily8_unassigned h]
  rfl

/-- Settles O6: the arms of the dispatch drop the fields that the words do not share. -/
theorem ignoredBitsHaveNoEffect : Obligations.IgnoredBitsHaveNoEffect := by
  intro w w' s hop
  refine ⟨fun h hn => ?_, fun h hx hy => ?_, fun h hn hnn hx => ?_, fun h hn hn' => ?_⟩
  · rw [decode_family0 h, decode_family0 (hop ▸ h)]
    exact exec_decodeFamily0_congr hn s
  · rcases h with h | h <;> simp [decode, h, ← hop, hx, hy, exec]
  · rcases hn with hn | hn <;> simp [decode, decodeFamily8, h, ← hop, hn, ← hnn, hx, exec]
  · rw [decode_family8 h, decode_family8 (hop ▸ h), exec_decodeFamily8_unassigned hn, exec_decodeFamily8_unassigned hn']

end Sys2Proof.Machine
end

section
/-! How a meaning and a step end (30_encoding.md R82), with the whole state they leave: an instruction faults as the tables of
60_exceptions.md R181 and R182 say, waits, or executes and ticks. -/

namespace Sys2Proof.Machine

/-! ### The execute phase -/

/-- Where a skip leaves `PC` (40_skip.md R100). -/
def skipTarget (cond : Bool) (s : State) : Word := if cond then s.nextPc + 2#16 else s.nextPc

/-- Is the key whose number is in `V[x]` held? A number above 15 names none. -/
def keyHeld (x : Reg) (s : State) : Bool := if h : (s.getV x).toNat < 16 then s.key ⟨(s.getV x).toNat, h⟩ else false

/-- The address of the next instruction pushed, without asking for room: a call on a full stack faults and does not get here. -/
def pushNext (s : State) : State :=
  { s with stack := s.stack.setIfInBounds s.sp.val s.nextPc, sp := Fin.ofNat 17 (s.sp.val + 1) }

theorem pushNext_of_room {s : State} (h : s.sp.val < 16) : pushNext s = s.push h s.nextPc := by
  have hsp : Fin.ofNat 17 (s.sp.val + 1) = ⟨s.sp.val + 1, Nat.succ_lt_succ h⟩ := Fin.ext (Nat.mod_eq_of_lt (by omega))
  have hstack : s.stack.setIfInBounds s.sp.val s.nextPc = s.stack.set s.sp.val s.nextPc := by
    simp [Vector.setIfInBounds, Vector.set, Array.setIfInBounds, h]
  rw [pushNext, hsp, hstack]
  rfl

/-- The state that the execute phase of an instruction leaves, before the tick, when the instruction neither faults nor waits. -/
def executed : Instr → State → State
  | .cls _, s => (s.setFb Screen.blank).advance
  | .ret _, s => s.dropTop.setPc (s.stack[s.sp.val - 1]'(by have := s.sp.isLt; omega))
  | .jpNnn nnn, s => s.setPc (addrOf nnn)
  | .callNnn nnn, s => (pushNext s).setPc (addrOf nnn)
  | .seVxKk x kk, s => s.setPc (skipTarget (s.getV x == kk) s)
  | .sneVxKk x kk, s => s.setPc (skipTarget (s.getV x != kk) s)
  | .seVxVy x y _, s => s.setPc (skipTarget (s.getV x == s.getV y) s)
  | .sneVxVy x y _, s => s.setPc (skipTarget (s.getV x != s.getV y) s)
  | .skpVx x, s => s.setPc (skipTarget (keyHeld x s) s)
  | .sknpVx x, s => s.setPc (skipTarget (!keyHeld x s) s)
  | .ldVxKk x kk, s => (s.setV x kk).advance
  | .addVxKk x kk, s => (s.setV x (sum8 (s.getV x) kk)).advance
  | .ldVxVy x y, s => (s.setV x (s.getV y)).advance
  | .orVxVy x y, s => (s.setV x (s.getV x ||| s.getV y)).advance
  | .andVxVy x y, s => (s.setV x (s.getV x &&& s.getV y)).advance
  | .xorVxVy x y, s => (s.setV x (s.getV x ^^^ s.getV y)).advance
  | .addVxVy x y, s => (s.setFlagThenV x (carry (s.getV x) (s.getV y)) (sum8 (s.getV x) (s.getV y))).advance
  | .subVxVy x y, s => (s.setFlagThenV x (noBorrow (s.getV x) (s.getV y)) (diff8 (s.getV x) (s.getV y))).advance
  | .shrVx x _, s => (s.setFlagThenV x (outRight (s.getV x)) (half8 (s.getV x))).advance
  | .subnVxVy x y, s => (s.setFlagThenV x (noBorrow (s.getV y) (s.getV x)) (diff8 (s.getV y) (s.getV x))).advance
  | .shlVx x _, s => (s.setFlagThenV x (outLeft (s.getV x)) (double8 (s.getV x))).advance
  | .ldINnn nnn, s => (s.setIndex (addrOf nnn)).advance
  | .jpV0Nnn nnn, s => s.setPc (jumpV0Target nnn s)
  | .rndVxKk x kk, s => (s.consumeRnd.setV x (s.rnd &&& kk)).advance
  | .drwVxVyN x y n, s => ((s.setFb (drwBlit x y n s).1).setV regVF (flagByte (drwBlit x y n s).2)).advance
  | .ldVxDt x, s => (s.setV x s.dt).advance
  | .ldVxK x, s => (s.setV x (BitVec.ofNat 8 (s.firstKey.getD 0).val)).advance
  | .ldDtVx x, s => (s.setDt (s.getV x)).advance
  | .ldStVx x, s => (s.setSt (s.getV x)).advance
  | .addIVx x, s => (s.setIndex (BitVec.ofNat 16 (indexSum x s))).advance
  | .ldFVx x, s => (s.setIndex (BitVec.ofNat 16 (glyphAddr x s))).advance
  | .ldBVx x, s => (s.storeBytes (indexAddr s) (bcdDigits (s.getV x))).advance
  | .ldMemVx x, s => (s.storeBytes (indexAddr s) ((regsUpTo x).map s.getV)).advance
  | .ldVxMem x, s => (s.setMany (loadedRegs x s)).advance
  | .sysNnn _, s | .nop8 _ _ _, s | .nopE _ _, s | .nopF _ _, s => s.advance

/-! ### The three ends of a meaning -/

/-- How the cycle of an instruction ends: with a fault of the tables of R181 and R182, as the pending key wait, or completed. -/
def endOf (i : Instr) (s : State) : Result :=
  match faultOf i s with
  | some (cause, info) => raise cause info s
  | none => if isKeyWait i = true ∧ s.firstKey = none then keyWait s else complete (executed i s)

theorem endOf_of_fault {i : Instr} {s : State} {cause : Cause} {info : Nat} (h : faultOf i s = some (cause, info)) :
    endOf i s = .next (faultedState cause info s) := by
  simp only [endOf, h, raise_eq]

theorem endOf_of_wait {i : Instr} {s : State} (h : faultOf i s = none) (hw : isKeyWait i = true ∧ s.firstKey = none) :
    endOf i s = .next s := by
  simp only [endOf, h, if_pos hw, keyWait]

theorem endOf_of_completed {i : Instr} {s : State} (h : faultOf i s = none)
    (hw : ¬ (isKeyWait i = true ∧ s.firstKey = none)) : endOf i s = .next (executed i s).tick := by
  simp only [endOf, h, if_neg hw, complete]

/-- An instruction with one condition under which it faults. -/
theorem endOf_of_ite {i : Instr} {s : State} {c : Prop} [Decidable c] {cause : Cause} {info : Nat}
    (h : faultOf i s = if c then some (cause, info) else none) (hw : isKeyWait i = false) :
    endOf i s = if c then raise cause info s else complete (executed i s) := by
  split
  · exact endOf_of_fault (h.trans (if_pos ‹_›))
  · exact endOf_of_completed (h.trans (if_neg ‹_›)) (by simp [hw])

theorem skipIf_eq (cond : Bool) (s : State) : skipIf cond s = complete (s.setPc (skipTarget cond s)) := by
  cases cond <;> rfl

theorem withRange_eq (a n : Nat) (s : State) (go : Result) :
    withRange a n s go = if 1 ≤ n ∧ 4095 < a + n - 1 then raise .address (max a 4096) s else go := by
  unfold withRange checkRange
  split_ifs <;> rfl

/-- The range check of an access of at least one byte. -/
theorem withRange_succ (a n : Nat) (s : State) (go : Result) :
    withRange a (n + 1) s go = if 4095 < a + n then raise .address (max a 4096) s else go := by
  rw [withRange_eq, Nat.add_succ_sub_one]
  simp

theorem withKey_eq (x : Reg) (s : State) (go : Bool → Result) :
    withKey x s go = if 15 < (s.getV x).toNat then raise .address (s.getV x).toNat s else go (keyHeld x s) := by
  unfold withKey keyHeld
  split
  · rw [if_neg (by omega)]
  · rw [if_pos (by omega)]

/-- A meaning ends as said: by the range check, the key number, the sum, the stack's bounds or the key found where it has one, and
otherwise always completed. -/
theorem exec_eq_endOf (i : Instr) (s : State) : exec i s = endOf i s := by
  cases i
  case drwVxVyN x y n =>
    rw [endOf_of_ite rfl rfl]
    exact withRange_eq _ _ _ _
  case ldBVx x =>
    rw [endOf_of_ite rfl rfl]
    exact withRange_succ _ 2 _ _
  case ldMemVx x =>
    rw [endOf_of_ite rfl rfl]
    exact withRange_succ _ _ _ _
  case ldVxMem x =>
    rw [endOf_of_ite rfl rfl]
    exact withRange_succ _ _ _ _
  case addIVx x =>
    rw [endOf_of_ite rfl rfl]
    rfl
  case skpVx x =>
    rw [endOf_of_ite rfl rfl]
    simp only [exec, execSkpVx, withKey_eq, skipIf_eq, executed]
  case sknpVx x =>
    rw [endOf_of_ite rfl rfl]
    simp only [exec, execSknpVx, withKey_eq, skipIf_eq, executed]
  case callNnn nnn =>
    rw [endOf_of_ite rfl rfl]
    by_cases h : s.sp.val = 16
    · simp [exec, execCallNnn, h]
    · have hroom : s.sp.val < 16 := by have := s.sp.isLt; omega
      simp [exec, execCallNnn, executed, h, hroom, pushNext_of_room hroom]
  case ret u =>
    rw [endOf_of_ite rfl rfl]
    by_cases h : s.sp.val = 0
    · simp [exec, execRet, h]
    · have hentry : 0 < s.sp.val := by omega
      simp only [exec, execRet, dif_pos hentry, if_neg h]
      rfl
  case ldVxK x =>
    cases hk : s.firstKey with
    | none => simp [exec, execLdVxK, hk, endOf, faultOf, isKeyWait]
    | some k => simp [exec, execLdVxK, hk, endOf, faultOf, executed]
  case seVxKk x kk => exact skipIf_eq _ s
  case sneVxKk x kk => exact skipIf_eq _ s
  case seVxVy x y n => exact skipIf_eq _ s
  case sneVxVy x y n => exact skipIf_eq _ s
  all_goals rfl

/-! ### The five ends of a step -/

/-- The states that a step can end in: as it began, with a latched fault; faulted at fetch; and, of an instruction fetched, faulted
by the tables, as it began, in a key wait, or completed and ticked (30_encoding.md R82). -/
inductive StepEnd (s : State) : State → Prop where
  | held (h : s.fault ≠ none) : StepEnd s s
  | badFetch (h : s.fault = none) (hpc : 0xFFE < s.pc.toNat) : StepEnd s (faultedState .address (max s.pc.toNat 4096) s)
  | faulted {w : Word} {cause : Cause} {info : Nat} (h : s.fault = none) (hw : s.fetch = .ok w)
      (hfault : faultOf (decode w) s = some (cause, info)) : StepEnd s (faultedState cause info s)
  | waited {w : Word} (h : s.fault = none) (hw : s.fetch = .ok w) (hfault : faultOf (decode w) s = none)
      (hwait : isKeyWait (decode w) = true ∧ s.firstKey = none) : StepEnd s s
  | completed {w : Word} (h : s.fault = none) (hw : s.fetch = .ok w) (hfault : faultOf (decode w) s = none)
      (hwait : ¬ (isKeyWait (decode w) = true ∧ s.firstKey = none)) : StepEnd s (executed (decode w) s).tick

/-- A step always answers a next state, in which it ends in one of these ways. -/
theorem exists_step (s : State) : ∃ t, step s = .next t ∧ StepEnd s t := by
  by_cases h : s.fault = none
  · by_cases hpc : s.pc.toNat ≤ 0xFFE
    · obtain ⟨w, hw⟩ : ∃ w, s.fetch = .ok w := ⟨_, fetch_of_in hpc⟩
      rw [step_of_fetch h hw, exec_eq_endOf]
      rcases hfault : faultOf (decode w) s with _ | ⟨cause, info⟩
      · by_cases hwait : isKeyWait (decode w) = true ∧ s.firstKey = none
        · exact ⟨s, endOf_of_wait hfault hwait, .waited h hw hfault hwait⟩
        · exact ⟨_, endOf_of_completed hfault hwait, .completed h hw hfault hwait⟩
      · exact ⟨_, endOf_of_fault hfault, .faulted h hw hfault⟩
    · exact ⟨_, step_of_fetch_error h (fetch_of_out (by omega)), .badFetch h (by omega)⟩
  · obtain ⟨r, hr⟩ := Option.ne_none_iff_exists'.mp h
    exact ⟨s, step_of_fault hr, .held h⟩

theorem stepEnd_of_step {s t : State} (h : step s = .next t) : StepEnd s t := by
  obtain ⟨t', ht', hend⟩ := exists_step s
  cases ht'.symm.trans h
  exact hend

/-- Settles O10: whichever way the step ends, it is a next state. -/
theorem stepAlwaysAnswersNext : Obligations.StepAlwaysAnswersNext := fun s =>
  (exists_step s).imp fun _ => And.left

end Sys2Proof.Machine
end

section
/-! The cycle (30_encoding.md R82): fetch, status, the latched fault, precise faults, the timers. -/

namespace Sys2Proof.Machine

/-! ### What every execute phase leaves alone -/

@[simp] theorem executed_fault (i : Instr) (s : State) : (executed i s).fault = s.fault := by
  cases i
  case ldVxMem x => exact State.setMany_fault s _
  all_goals rfl

@[simp] theorem executed_keys (i : Instr) (s : State) : (executed i s).keys = s.keys := by
  cases i
  case ldVxMem x => exact State.setMany_keys s _
  all_goals rfl

@[simp] theorem executed_params (i : Instr) (s : State) : (executed i s).params = s.params := by
  cases i
  case ldVxMem x => exact State.setMany_params s _
  all_goals rfl

/-! ### Fetch and dispatch -/

/-- Settles O8: fetch gives the word of the two bytes. -/
theorem stepRunsDecodedInstruction : Obligations.StepRunsDecodedInstruction := by
  intro s i hfault hpc hdecode
  rw [step_of_fetch hfault (fetch_of_in hpc)]
  rw [decodeBytes_pair] at hdecode
  cases hdecode
  rfl

/-- Settles O9: the word at `PC` where both bytes exist, and on either side of 4095 the fault of the fetch. -/
theorem fetchIsBigEndianOrFaults : Obligations.FetchIsBigEndianOrFaults := by
  intro s hfault
  have hout (hpc : 4094 < s.pc.toNat) : step s = .next (faultedState .address (max s.pc.toNat 4096) s) :=
    (step_of_fetch_error hfault (fetch_of_out hpc)).trans (raise_eq _ _ s)
  refine ⟨fun hpc => ⟨_, toNat_wordOfBytes _ _, step_of_fetch hfault (fetch_of_in hpc)⟩, fun hpc => ?_, fun hpc => ?_⟩
  · rw [hout (by omega), hpc]
    rfl
  · rw [hout (by omega), max_eq_left (by omega)]

/-! ### What a step changes -/

theorem awaitingKey_iff {s : State} {w : Word} (hw : s.fetch = .ok w) :
    s.awaitingKey = true ↔ isKeyWait (decode w) = true ∧ s.firstKey = none := by
  simp [awaitingKey_of_fetch hw]

/-- A step changes at most the latch, or completes the instruction fetched. -/
theorem step_changes {s t : State} (h : step s = .next t) :
    t = { s with fault := t.fault } ∨
    ∃ w, s.fault = none ∧ s.fetch = .ok w ∧ faultOf (decode w) s = none ∧ s.awaitingKey = false ∧
      t = (executed (decode w) s).tick := by
  cases stepEnd_of_step h with
  | held | badFetch | faulted | waited => exact .inl rfl
  | completed hfault hw hnone hwait =>
    exact .inr ⟨_, hfault, hw, hnone, Bool.eq_false_iff.mpr (mt (awaitingKey_iff hw).mp hwait), rfl⟩

/-- A faulting cycle, a cycle after a fault and a waiting cycle change at most the latch. -/
theorem step_unchanged {s t : State} (h : step s = .next t) (hend : t.fault ≠ none ∨ s.awaitingKey = true) :
    t = { s with fault := t.fault } := by
  rcases step_changes h with hsame | ⟨_, hfault, -, -, hwait, rfl⟩
  · exact hsame
  · simp [hfault, hwait] at hend

/-- A cycle that neither faults nor waits completes the instruction fetched. -/
theorem step_completed {s t : State} {w : Word} (h : step s = .next t) (hw : s.fetch = .ok w) (ht : t.fault = none)
    (hwait : s.awaitingKey = false) : faultOf (decode w) s = none ∧ t = (executed (decode w) s).tick := by
  cases stepEnd_of_step h with
  | held hfault => exact absurd ht hfault
  | badFetch | faulted => simp [faultedState] at ht
  | waited _ hw' _ hkey => exact absurd ((awaitingKey_iff hw').mpr hkey) (by simp [hwait])
  | completed _ hw' hnone =>
    cases hw.symm.trans hw'
    exact ⟨hnone, rfl⟩

/-- The key wait never faults. -/
theorem faultOf_of_isKeyWait {i : Instr} {s : State} (h : isKeyWait i = true) : faultOf i s = none := by
  cases i
  case ldVxK x => rfl
  all_goals exact absurd h Bool.false_ne_true

/-- A pending key wait keeps the whole state (45_timer_key.md R163). -/
theorem step_of_awaitingKey {s : State} (hwait : s.awaitingKey = true) : step s = .next s := by
  obtain ⟨t, ht, hend⟩ := exists_step s
  rw [ht]
  cases hend with
  | held | waited => rfl
  | badFetch _ hpc => simp [State.awaitingKey, fetch_of_out hpc] at hwait
  | faulted _ hw hf =>
    rw [faultOf_of_isKeyWait ((awaitingKey_iff hw).mp hwait).1] at hf
    exact absurd hf (by simp)
  | completed _ hw _ hkey => exact absurd ((awaitingKey_iff hw).mp hwait) hkey

/-- Settles O14: of the ways a step ends, those that latch a fault leave the faulted state. -/
theorem faultChangesOnlyTheLatch : Obligations.FaultChangesOnlyTheLatch := by
  intro s t hfault h ht
  cases stepEnd_of_step h with
  | held hheld => exact absurd hfault hheld
  | badFetch | faulted => exact ⟨_, _, rfl⟩
  | waited => exact absurd hfault ht
  | completed => exact absurd hfault (by simpa using ht)

/-- Settles O15: a step of an instruction fetched latches what the tables give, and where they give nothing it keeps the latch. -/
theorem faultsAreExactlyTheListed : Obligations.FaultsAreExactlyTheListed := by
  intro s t hfault hpc h
  have hfetch := fetch_of_in hpc
  cases stepEnd_of_step h with
  | held hheld => exact absurd hfault hheld
  | badFetch _ hout => omega
  | faulted _ hw hf =>
    cases hfetch.symm.trans hw
    rw [hf]
    rfl
  | waited _ hw hf _ | completed _ hw hf _ =>
    cases hfetch.symm.trans hw
    rw [hf]
    simpa using hfault

/-! ### The timers -/

/-- Settles O16: the two timers after the execute phase, each ticked once, or the state unchanged. -/
theorem timersTickOncePerCompletedCycle : Obligations.TimersTickOncePerCompletedCycle := by
  intro s t h
  refine ⟨fun hend => ?_, fun w hw ht hwait => ?_⟩
  · rw [step_unchanged h hend]
    exact ⟨rfl, rfl⟩
  · obtain ⟨-, rfl⟩ := step_completed h hw ht hwait
    simp only [State.tick_dt, State.tick_st, toNat_tickDown]
    generalize decode w = i
    cases i
    case ldVxMem x => simp [executed]
    all_goals exact ⟨rfl, rfl⟩

/-! ### A latched fault, and the status of a cycle -/

/-- Settles O12: a step after a fault is the state itself, and of the host's operations only `reset()` writes the latch. -/
theorem latchedFaultHolds : Obligations.LatchedFaultHolds := by
  intro s h
  obtain ⟨r, hr⟩ := Option.ne_none_iff_exists'.mp h
  refine ⟨run_of_fixed (step_of_fault hr), fun bytes => ?_, fun _ => rfl, rfl⟩
  unfold State.load
  split <;> rfl

theorem cycleStatus_eq_faulted (s t : State) (c : Cause) :
    s.cycleStatus t = .faulted c ↔ ∃ r, t.fault = some r ∧ r.cause = c := by
  unfold State.cycleStatus
  cases t.fault with
  | none => simp; split <;> simp
  | some r => simp

theorem cycleStatus_eq_waiting (s t : State) : s.cycleStatus t = .waiting ↔ t.fault = none ∧ s.awaitingKey = true := by
  unfold State.cycleStatus
  cases t.fault with
  | none => simp
  | some r => simp

/-- Settles O11: the cycle's step with the byte given, by what the status says of its end. -/
theorem cycleReturnsStatus : Obligations.CycleReturnsStatus := by
  intro rnd s
  obtain ⟨t, ht, -⟩ := exists_step (s.giveRnd rnd)
  have hrestored : (s.giveRnd rnd).restoreRnd s = s := rfl
  have hwaits (hwait : s.awaitingKey = true) : t = s.giveRnd rnd := by
    cases ht.symm.trans (step_of_awaitingKey (s := s.giveRnd rnd) hwait)
    rfl
  have hheld (hfault : s.fault ≠ none) : t = s.giveRnd rnd := by
    obtain ⟨r, hr⟩ := Option.ne_none_iff_exists'.mp hfault
    cases ht.symm.trans (step_of_fault (s := s.giveRnd rnd) hr)
    rfl
  have hstatus : s.cycleStatus t = .waiting ↔ s.fault = none ∧ s.awaitingKey = true := by
    rw [cycleStatus_eq_waiting]
    refine ⟨fun ⟨hnone, hwait⟩ => ⟨?_, hwait⟩, fun ⟨hfault, hwait⟩ => ⟨?_, hwait⟩⟩
    · by_contra hfault
      rw [hheld hfault] at hnone
      exact hfault hnone
    · rw [hwaits hwait]
      exact hfault
  refine ⟨t.restoreRnd s, s.cycleStatus t, cycle_of_step ht, cycleStatus_eq_faulted s t, hstatus, fun h => ?_, fun h => ?_,
    fun h => ?_⟩
  · rw [hwaits (hstatus.mp h).2, hrestored]
  · rw [hheld h, hrestored]
  · rw [step_unchanged ht (.inl h)]
    rfl

end Sys2Proof.Machine
end

section
/-! Runs of several steps (45_timer_key.md R163, 41_jump_call.md R110): a key wait until a key is held, and a jump to itself. -/

namespace Sys2Proof.Machine

/-! ### The key wait -/

/-- `Fx0A` with a key held is a register result: the number of the least key held (45_timer_key.md R163). -/
theorem exec_ldVxK_of_least {x : Reg} {s : State} {k : Fin 16} (hk : s.key k = true) (hleast : ∀ j, j < k → s.key j = false) :
    ∃ t, exec (.ldVxK x) s = .next t ∧ (t.getV x).toNat = k.val ∧ CompletesAt (s.pc + 2#16) [.v x] s t := by
  obtain ⟨t, ht, hnumber, hframe⟩ := putV_completes x (BitVec.ofNat 8 k.val) s
  have hstore : exec (.ldVxK x) s = putV x (BitVec.ofNat 8 k.val) s := by
    simp only [exec, execLdVxK, firstKey_eq_some.mpr ⟨hk, hleast⟩]
    rfl
  refine ⟨t, hstore.trans ht, ?_, hframe⟩
  · have := k.isLt
    rw [hnumber, BitVec.toNat_ofNat, Nat.mod_eq_of_lt (by omega)]

/-- With no key held it is a waiting cycle. -/
theorem exec_ldVxK_of_none {x : Reg} {s : State} (h : ∀ k, s.key k = false) : exec (.ldVxK x) s = .next s := by
  simp [exec, execLdVxK, firstKey_eq_none.mpr h, keyWait]

/-- Settles O56: the two cases of the keypad. -/
theorem keyWaitStoresLeastKey : Obligations.KeyWaitStoresLeastKey := by
  intro x s
  exact ⟨(decode_ofNat_familyF x 0x0A#8).trans (by simp [decodeFamilyF]), fun k => exec_ldVxK_of_least, exec_ldVxK_of_none⟩

/-- Settles O13: the wait is a fixed point of the step, and a latch set by the host turns it into the store of the least key. -/
theorem keyWaitHoldsUntilKey : Obligations.KeyWaitHoldsUntilKey := by
  intro x s hfault hfetch hnone
  have hdecode : decode (0xF00A#16 + BitVec.ofNat 16 (0x100 * x.val)) = .ldVxK x := by
    rw [← BitVec.ofNat_add]
    exact decode_ofNat rfl (by simp [encode]; omega)
  refine ⟨run_of_fixed ?_, fun keys k hk hleast => ?_⟩
  · rw [step_of_fetch hfault hfetch, hdecode, exec_ldVxK_of_none hnone]
  · have hfetch' : (s.setKeys keys).fetch = _ := (fetch_congr rfl rfl rfl).trans hfetch
    rw [step_of_fetch (s := s.setKeys keys) hfault hfetch', hdecode]
    exact exec_ldVxK_of_least hk hleast

/-! ### A jump to itself -/

/-- A step at a jump to its own address ticks the timers and does nothing else. -/
theorem step_of_selfJump {s : State} (hfault : s.fault = none) (hpc : s.pc.toNat < 4096)
    (hfetch : s.fetch = .ok (0x1000#16 + s.pc)) : step s = .next s.tick := by
  have htarget : addrOf (s.pc.setWidth 12) = s.pc := by
    apply BitVec.eq_of_toNat_eq
    simp
    omega
  have hdecode : decode (0x1000#16 + s.pc) = .jpNnn (s.pc.setWidth 12) := by
    have hword : 0x1000#16 + s.pc = BitVec.ofNat 16 (0x1000 + s.pc.toNat) := by rw [BitVec.ofNat_add]; simp
    rw [hword]
    exact decode_ofNat rfl (by simp [encode]; omega)
  rw [step_of_fetch hfault hfetch, hdecode]
  simp only [exec, execJpNnn, htarget]
  rfl

/-- Settles O36, by induction on the number of steps: a tick keeps all that makes the next step a jump to itself. -/
theorem jumpToSelfOnlyTicksTimers : Obligations.JumpToSelfOnlyTicksTimers := by
  intro s k hfault hpc hfetch
  induction k generalizing s with
  | zero => exact ⟨hfault, s, rfl, rfl, rfl, rfl⟩
  | succ k ih =>
    have hstep := step_of_selfJump hfault hpc hfetch
    obtain ⟨hsafe, t, hrun, hdt, hst, hrest⟩ := ih s.tick hfault hpc ((fetch_congr rfl rfl rfl).trans hfetch)
    refine ⟨⟨hfault, fun t' ht' => ?_⟩, t, (run_succ_of_step hstep k).trans hrun, ?_, ?_, hrest⟩
    · cases hstep.symm.trans ht'
      exact hsafe
    · rw [hdt, State.tick_dt, toNat_tickDown]
      omega
    · rw [hst, State.tick_st, toNat_tickDown]
      omega

end Sys2Proof.Machine
end

section
/-! Where `PC` goes (10_state.md R23): the target of each class of instruction. -/

namespace Sys2Proof.Machine

/-- A skip's target as a number. -/
theorem toNat_skipTarget {s : State} (hpc : s.pc.toNat ≤ 0xFFE) (cond : Bool) :
    (skipTarget cond s).toNat = s.pc.toNat + if cond = true then 4 else 2 := by
  cases cond
  · exact toNat_nextPc (by omega)
  · have hnext := toNat_nextPc (s := s) (by omega)
    simp only [skipTarget, if_true, BitVec.toNat_add, hnext, BitVec.toNat_ofNat]
    omega

/-- A skip on equality or on inequality, its condition read as one of numbers. -/
theorem toNat_skipTarget_beq {s : State} (hpc : s.pc.toNat ≤ 0xFFE) (a b : Byte) :
    (skipTarget (a == b) s).toNat = s.pc.toNat + if a.toNat = b.toNat then 4 else 2 := by
  simp [toNat_skipTarget hpc, BitVec.toNat_inj]

theorem toNat_skipTarget_bne {s : State} (hpc : s.pc.toNat ≤ 0xFFE) (a b : Byte) :
    (skipTarget (a != b) s).toNat = s.pc.toNat + if a.toNat = b.toNat then 2 else 4 := by
  simp [toNat_skipTarget hpc, BitVec.toNat_inj]

/-- A skip's key, when its number is in range. -/
theorem exists_key {x : Reg} {s : State} (h : ¬ 15 < (s.getV x).toNat) :
    ∃ k : Fin 16, (s.getV x).toNat = k.val ∧ keyHeld x s = s.keys[k.val] := by
  have hk : (s.getV x).toNat < 16 := by omega
  exact ⟨⟨_, hk⟩, rfl, dif_pos hk⟩

/-- Settles O17: the target of each class, no address of which wraps because the fetch was in memory. -/
theorem programCounterAfterEachClass : Obligations.ProgramCounterAfterEachClass := by
  intro s t w hfault hw h
  refine ⟨fun hend => by rw [step_unchanged h hend], fun ht hwait => ?_⟩
  obtain ⟨hnone, rfl⟩ := step_completed h hw ht hwait
  have hpc := (fetch_eq_ok hw).1
  have hnext : s.nextPc.toNat = s.pc.toNat + 2 := toNat_nextPc (by omega)
  have hsp := s.sp.isLt
  generalize decode w = i at hnone
  rw [State.tick_pc]
  cases i
  case jpNnn nnn => exact toNat_addrOf nnn
  case jpV0Nnn nnn => exact toNat_jumpV0Target nnn s
  case callNnn nnn =>
    have hroom : s.sp.val < 16 := by
      simp [faultOf] at hnone
      omega
    refine ⟨toNat_addrOf nnn, ⟨s.sp.val, hroom⟩, rfl, ?_⟩
    simpa [executed, pushNext_of_room hroom] using hnext
  case ret u =>
    have hentry : s.sp.val ≠ 0 := by simpa [faultOf] using hnone
    exact ⟨⟨s.sp.val - 1, by omega⟩, by simp; omega, rfl⟩
  case seVxKk x kk => exact toNat_skipTarget_beq hpc _ _
  case sneVxKk x kk => exact toNat_skipTarget_bne hpc _ _
  case seVxVy x y n => exact toNat_skipTarget_beq hpc _ _
  case sneVxVy x y n => exact toNat_skipTarget_bne hpc _ _
  case skpVx x =>
    obtain ⟨k, hk, hheld⟩ := exists_key (x := x) (s := s) (by simpa [faultOf] using hnone)
    refine ⟨k, hk, (toNat_skipTarget hpc _).trans ?_⟩
    rw [hheld]
  case sknpVx x =>
    obtain ⟨k, hk, hheld⟩ := exists_key (x := x) (s := s) (by simpa [faultOf] using hnone)
    refine ⟨k, hk, (toNat_skipTarget hpc _).trans ?_⟩
    rw [hheld]
    cases s.keys[k.val] <;> rfl
  case ldVxMem x => simpa [executed] using hnext
  all_goals exact hnext

end Sys2Proof.Machine
end

section
/-! Who writes what (10_state.md R34): each part of the state after an execute phase, unchanged or the instruction a listed
writer of it; and the sound timer, which nothing reads (R27). -/

namespace Sys2Proof.Machine

/-! ### The parts other than the registers -/

theorem executed_index (i : Instr) (s : State) :
    (executed i s).index = s.index ∨ mnemonicOf i ∈ ["LD_I__nnn", "ADD_I__Vx", "LD_F__Vx"] := by
  cases i
  case ldINnn | addIVx | ldFVx => exact .inr (by simp [mnemonicOf])
  case ldVxMem x => exact .inl (State.setMany_index s _)
  all_goals exact .inl rfl

theorem executed_stack (i : Instr) (s : State) :
    (executed i s).stack = s.stack ∨ mnemonicOf i = "CALL_nnn" := by
  cases i
  case callNnn => exact .inr rfl
  case ldVxMem x => exact .inl (State.setMany_stack s _)
  all_goals exact .inl rfl

theorem executed_sp (i : Instr) (s : State) :
    (executed i s).sp = s.sp ∨ mnemonicOf i ∈ ["CALL_nnn", "RET"] := by
  cases i
  case callNnn | ret => exact .inr (by simp [mnemonicOf])
  case ldVxMem x => exact .inl (State.setMany_sp s _)
  all_goals exact .inl rfl

theorem executed_dt (i : Instr) (s : State) : (executed i s).dt = s.dt ∨ mnemonicOf i = "LD_DT__Vx" := by
  cases i
  case ldDtVx => exact .inr rfl
  case ldVxMem x => exact .inl (State.setMany_dt s _)
  all_goals exact .inl rfl

theorem executed_st (i : Instr) (s : State) : (executed i s).st = s.st ∨ mnemonicOf i = "LD_ST__Vx" := by
  cases i
  case ldStVx => exact .inr rfl
  case ldVxMem x => exact .inl (State.setMany_st s _)
  all_goals exact .inl rfl

theorem executed_fb (i : Instr) (s : State) :
    (executed i s).fb = s.fb ∨ mnemonicOf i ∈ ["CLS", "DRW_Vx__Vy__n"] := by
  cases i
  case cls | drwVxVyN => exact .inr (by simp [mnemonicOf])
  case ldVxMem x => exact .inl (State.setMany_fb s _)
  all_goals exact .inl rfl

theorem executed_mem (i : Instr) (s : State) :
    (executed i s).mem = s.mem ∨ mnemonicOf i ∈ ["LD_B__Vx", "LD__I___Vx"] := by
  cases i
  case ldBVx | ldMemVx => exact .inr (by simp [mnemonicOf])
  case ldVxMem x => exact .inl (State.setMany_mem s _)
  all_goals exact .inl rfl

theorem executed_rnd (i : Instr) (s : State) :
    (executed i s).draws = s.draws ∧ (executed i s).rndIn = s.rndIn ∨ mnemonicOf i = "RND_Vx__kk" := by
  cases i
  case rndVxKk => exact .inr rfl
  case ldVxMem x => exact .inl ⟨State.setMany_draws s _, State.setMany_rndIn s _⟩
  all_goals exact .inl ⟨rfl, rfl⟩

theorem executed_pc (i : Instr) (s : State) :
    (executed i s).pc = s.pc + 2#16 ∨ mnemonicOf i ∈ ["SE_Vx__kk", "SNE_Vx__kk", "SE_Vx__Vy", "SNE_Vx__Vy", "SKP_Vx",
      "SKNP_Vx", "JP_nnn", "CALL_nnn", "JP_V0__nnn", "RET"] := by
  cases i
  case seVxKk | sneVxKk | seVxVy | sneVxVy | skpVx | sknpVx | jpNnn | callNnn | jpV0Nnn | ret =>
    exact .inr (by simp [mnemonicOf])
  case ldVxMem x => exact .inl (congrArg (· + 2#16) (State.setMany_pc s _))
  all_goals exact .inl rfl

/-! ### The registers -/

/-- A register whose value a register write changes is the one written. -/
theorem eq_of_getV_setV_ne {s : State} {x r : Reg} {b : Byte} (h : (s.setV x b).getV r ≠ s.getV r) : x = r := by
  by_contra hne
  exact h (State.getV_setV_other s b hne)

/-- And with a flag it is the destination or VF. -/
theorem eq_of_getV_setFlagThenV_ne {s : State} {x r : Reg} {flag : Bool} {b : Byte}
    (h : (s.setFlagThenV x flag b).getV r ≠ s.getV r) : x = r ∨ r = 15 := by
  by_contra hne
  exact h (State.getV_setFlagThenV_other s flag b (fun e => hne (.inl e)) (fun e => hne (.inr e)))

/-- A register whose value an execute phase changes is the destination of a register result, one that `Fx65` loads, or VF written
by a flag writer. -/
theorem executed_getV {i : Instr} {s : State} {r : Reg} (h : (executed i s).getV r ≠ s.getV r) :
    (Bits.x (encode i) = r ∧ mnemonicOf i ∈ ["LD_Vx__kk", "ADD_Vx__kk", "LD_Vx__Vy", "OR_Vx__Vy", "AND_Vx__Vy", "XOR_Vx__Vy",
      "ADD_Vx__Vy", "SUB_Vx__Vy", "SHR_Vx", "SUBN_Vx__Vy", "SHL_Vx", "RND_Vx__kk", "LD_Vx__DT", "LD_Vx__K"]) ∨
    (r ≤ Bits.x (encode i) ∧ mnemonicOf i = "LD_Vx___I") ∨
    (r = 15 ∧ mnemonicOf i ∈ ["ADD_Vx__Vy", "SUB_Vx__Vy", "SHR_Vx", "SUBN_Vx__Vy", "SHL_Vx", "DRW_Vx__Vy__n"]) := by
  cases i
  case ldVxKk | addVxKk | rndVxKk | ldVxDt | ldVxK =>
    exact .inl ⟨(Bits.x_wordXK _ _ _).trans (eq_of_getV_setV_ne h), by simp [mnemonicOf]⟩
  case ldVxVy | orVxVy | andVxVy | xorVxVy =>
    exact .inl ⟨(Bits.x_wordXYN _ _ _ _).trans (eq_of_getV_setV_ne h), by simp [mnemonicOf]⟩
  case addVxVy | subVxVy | shrVx | subnVxVy | shlVx =>
    rcases eq_of_getV_setFlagThenV_ne h with hx | hflag
    · exact .inl ⟨(Bits.x_wordXYN _ _ _ _).trans hx, by simp [mnemonicOf]⟩
    · exact .inr (.inr ⟨hflag, by simp [mnemonicOf]⟩)
  case drwVxVyN => exact .inr (.inr ⟨(eq_of_getV_setV_ne h).symm, by simp [mnemonicOf]⟩)
  case ldVxMem x =>
    refine .inr (.inl ⟨?_, rfl⟩)
    by_contra hnot
    rw [encode, Bits.x_wordXK] at hnot
    exact h ((getV_setMany_loadedRegs x r s).trans (if_neg hnot))
  all_goals exact absurd rfl h

/-! ### The obligations -/

/-- A tick that changes a timer takes one from it. -/
theorem tickDown_ne {b : Byte} (h : tickDown b ≠ b) : (tickDown b).toNat + 1 = b.toNat := by
  have hne : (tickDown b).toNat ≠ b.toNat := fun e => h (BitVec.eq_of_toNat_eq e)
  rw [toNat_tickDown] at hne ⊢
  omega

/-- A timer that an execute phase leaves alone is only ticked. -/
theorem tick_of_unchanged {a b : Byte} {writer : Prop} (hwrite : a = b ∨ writer) (h : tickDown a ≠ b) :
    writer ∨ (tickDown a).toNat + 1 = b.toNat := by
  rcases hwrite with rfl | hwriter
  · exact .inr (tickDown_ne h)
  · exact .inl hwriter

/-- Settles O18: a step that changes at most the latch, and one that completes, part by part. -/
theorem onlyListedInstructionsWrite : Obligations.OnlyListedInstructionsWrite := by
  intro s t h
  have hheld (r : FaultRecord) (hr : s.fault = some r) : t.fault = some r ∧ t = s := by
    cases (step_of_fault hr).symm.trans h
    exact ⟨hr, rfl⟩
  have hfree (hne : t.fault ≠ s.fault) : s.fault = none := by
    by_contra hsome
    obtain ⟨r, hr⟩ := Option.ne_none_iff_exists'.mp hsome
    exact hne ((hheld r hr).1.trans hr.symm)
  rcases step_changes h with hsame | ⟨w, -, hw, -, -, rfl⟩
  · obtain ⟨fault, rfl⟩ : ∃ fault, t = { s with fault := fault } := ⟨_, hsame⟩
    refine ⟨hheld, fun hne => ⟨hfree hne, rfl⟩, fun _ _ => rfl, rfl, rfl, fun _ _ _ => ?_⟩
    simp [State.getV]
  · have hlatch : (executed (decode w) s).tick.fault = s.fault := executed_fault _ s
    refine ⟨hheld, fun hne => absurd hlatch hne, fun bad hbad => ?_, executed_keys _ s, executed_params _ s,
      fun w' _ hw' => ?_⟩
    · cases hw.symm.trans hbad
    · cases hw.symm.trans hw'
      obtain ⟨i, -, rfl, hdecode⟩ := exists_encode w
      rw [hdecode]
      exact ⟨fun _ hx => executed_getV hx, (executed_index i s).resolve_left, fun _ => (executed_pc i s).resolve_left,
        (executed_stack i s).resolve_left, (executed_sp i s).resolve_left, tick_of_unchanged (executed_dt i s),
        tick_of_unchanged (executed_st i s), (executed_fb i s).resolve_left, (executed_mem i s).resolve_left,
        fun hx => (executed_rnd i s).resolve_left (not_and_or.mpr hx)⟩

/-- Settles O19: the register clause of O18 for VF, its first list split into the flag writers and the others. -/
theorem flagRegisterChangesOnlyByItsWriters : Obligations.FlagRegisterChangesOnlyByItsWriters := by
  intro s t w hfault hw h hne
  obtain ⟨-, -, -, -, -, hparts⟩ := onlyListedInstructionsWrite s t h
  have hlast (hx : 15 ≤ Bits.x w) : Bits.x w = 15 := Fin.last_le_iff.mp hx
  rcases (hparts w hfault hw).1 15 hne with ⟨hx, hname⟩ | ⟨hx, hname⟩ | ⟨-, hname⟩
  · simp only [List.mem_cons, List.not_mem_nil, or_false] at hname
    rcases hname with h | h | h | h | h | h | h | h | h | h | h | h | h | h
    all_goals simp [h, hx]
  · exact .inr ⟨hlast hx, by simp [hname]⟩
  · exact .inl hname

/-! ### The sound timer (10_state.md R27) -/

theorem setMany_setSt (s : State) (b : Byte) (l : List (Reg × Byte)) : (s.setSt b).setMany l = (s.setMany l).setSt b := by
  induction l generalizing s with
  | nil => rfl
  | cons p l ih => exact ih (s.setV p.1 p.2)

theorem faultOf_setSt (i : Instr) (s : State) (b : Byte) : faultOf i (s.setSt b) = faultOf i s := by
  cases i
  all_goals rfl

/-- An execute phase from another sound timer differs in the sound timer only. -/
theorem executed_setSt (i : Instr) (s : State) (b : Byte) : ∃ b', executed i (s.setSt b) = (executed i s).setSt b' := by
  cases i
  case ldStVx x => exact ⟨s.getV x, rfl⟩
  case ldVxMem x => exact ⟨b, congrArg State.advance (setMany_setSt s b _)⟩
  all_goals exact ⟨b, rfl⟩

/-- Settles O20: each way a step can end is the same from another sound timer. -/
theorem soundTimerIsNeverRead : Obligations.SoundTimerIsNeverRead := by
  intro s t b h
  have hrun {w : Word} (hfault : s.fault = none) (hw : s.fetch = .ok w) :
      step (s.setSt b) = endOf (decode w) (s.setSt b) :=
    (step_of_fetch (s := s.setSt b) hfault hw).trans (exec_eq_endOf _ _)
  cases stepEnd_of_step h with
  | held hheld =>
    obtain ⟨r, hr⟩ := Option.ne_none_iff_exists'.mp hheld
    exact ⟨b, step_of_fault (s := s.setSt b) hr⟩
  | badFetch hfault hpc => exact ⟨b, step_of_fetch_error (s := s.setSt b) hfault (fetch_of_out hpc)⟩
  | faulted hfault hw hf => exact ⟨b, (hrun hfault hw).trans (endOf_of_fault ((faultOf_setSt _ s b).trans hf))⟩
  | waited hfault hw hf hwait => exact ⟨b, (hrun hfault hw).trans (endOf_of_wait ((faultOf_setSt _ s b).trans hf) hwait)⟩
  | completed hfault hw hf hwait =>
    obtain ⟨b', hb'⟩ := executed_setSt (decode _) s b
    refine ⟨tickDown b', (hrun hfault hw).trans ?_⟩
    rw [endOf_of_completed ((faultOf_setSt _ s b).trans hf) hwait, hb']
    rfl

end Sys2Proof.Machine
end

section
/-! The invariant of the state (10_state.md R37): at reset, kept by every step and by what the host does between steps, and so in
every reachable state. -/

namespace Sys2Proof.Machine

/-- Settles O21: nothing is listed in memory, and every entry of the stack is zero. -/
theorem invariantAtReset : Obligations.InvariantAtReset := fun params => {
  mem := rfl
  pc := by simp
  stack := by simp
  fault := by simp }

/-! ### The parts of the invariant after an execute phase -/

/-- Memory stays canonical: only the stores write it. -/
theorem executed_wf {i : Instr} {s : State} (h : Memory.wf s.params s.mem = true) :
    Memory.wf (executed i s).params (executed i s).mem = true := by
  rw [executed_params]
  cases i
  case ldBVx | ldMemVx => exact Memory.wf_writeBytes _ _ h
  case ldVxMem x => rwa [executed, State.advance_mem, State.setMany_mem]
  all_goals exact h

/-- From an instruction in memory, `PC` goes at most as far as a computed jump reaches. -/
theorem executed_pc_le {i : Instr} {s : State} (hpc : s.pc.toNat ≤ 0xFFE)
    (hstack : ∀ k : Fin 16, s.stack[k.val].toNat ≤ 0x1000) : (executed i s).pc.toNat ≤ 0x10FE := by
  have hnext : s.nextPc.toNat ≤ 0x10FE := by rw [toNat_nextPc (by omega)]; omega
  have hskip (cond : Bool) : (skipTarget cond s).toNat ≤ 0x10FE := by
    rw [toNat_skipTarget hpc]
    split <;> omega
  cases i
  case seVxKk | sneVxKk | seVxVy | sneVxVy | skpVx | sknpVx => exact hskip _
  case jpNnn nnn | callNnn nnn =>
    have hbound := nnn.isLt
    refine (toNat_addrOf nnn).trans_le ?_
    omega
  case jpV0Nnn nnn =>
    have hbound := nnn.isLt
    have hbyte := (s.getV 0).isLt
    refine (toNat_jumpV0Target nnn s).trans_le ?_
    omega
  case ret u =>
    have hentry := hstack ⟨s.sp.val - 1, by have := s.sp.isLt; omega⟩
    exact hentry.trans (by omega)
  case ldVxMem x => rwa [executed, State.advance_pc, State.setMany_pc]
  all_goals exact hnext

/-- A call pushes an address that follows an instruction in memory. -/
theorem executed_stack_le {i : Instr} {s : State} (hpc : s.pc.toNat ≤ 0xFFE)
    (hstack : ∀ k : Fin 16, s.stack[k.val].toNat ≤ 0x1000) (k : Fin 16) :
    (executed i s).stack[k.val].toNat ≤ 0x1000 := by
  cases i
  case callNnn nnn =>
    have hentry : (executed (.callNnn nnn) s).stack[k.val] = if s.sp.val = k.val then s.nextPc else s.stack[k.val] :=
      Vector.getElem_setIfInBounds _
    rw [hentry]
    split
    · rw [toNat_nextPc (by omega)]
      omega
    · exact hstack k
  case ldVxMem x =>
    simp only [executed, State.advance_stack, State.setMany_stack]
    exact hstack k
  all_goals exact hstack k

/-- The records of the two fault tables are legal: a value out of its range, which two 16-bit numbers at most make up. -/
theorem faultOf_legal {i : Instr} {s : State} {cause : Cause} {info : Nat} (h : faultOf i s = some (cause, info)) :
    FaultRecord.Legal { cause := cause, pc := s.pc, info := info } := by
  have hindex := s.index.isLt
  have hbyte (x : Reg) := (s.getV x).isLt
  cases i
  case callNnn | ret =>
    obtain ⟨-, heq⟩ := Option.ite_none_right_eq_some.mp h
    cases heq
    simp [FaultRecord.Legal]
  case drwVxVyN | ldBVx | ldMemVx | ldVxMem =>
    obtain ⟨-, heq⟩ := Option.ite_none_right_eq_some.mp h
    cases heq
    change 16 ≤ max _ 4096 ∧ max _ 4096 < 2 ^ 17
    omega
  case addIVx x | skpVx x | sknpVx x =>
    obtain ⟨hout, heq⟩ := Option.ite_none_right_eq_some.mp h
    cases heq
    have hx := hbyte x
    simp only [FaultRecord.Legal]
    omega
  all_goals cases h

/-! ### Steps -/

/-- A state that a fault leaves meets the invariant when its record is legal. -/
theorem stateInv_faultedState {s : State} {cause : Cause} {info : Nat} (hs : StateInv s)
    (hlegal : FaultRecord.Legal { cause := cause, pc := s.pc, info := info }) : StateInv (faultedState cause info s) where
  mem := hs.mem
  pc := hs.pc
  stack := hs.stack
  fault := by
    rintro r ⟨⟩
    exact ⟨hlegal, rfl⟩

/-- Settles O22: a step keeps the state, leaves a legal record, or completes an instruction fetched from inside memory. -/
theorem stepKeepsInvariant : Obligations.StepKeepsInvariant := by
  intro s t hs h
  have hpc_lt := hs.pc
  cases stepEnd_of_step h with
  | held | waited => exact hs
  | badFetch =>
    refine stateInv_faultedState hs ?_
    change 16 ≤ max _ 4096 ∧ max _ 4096 < 2 ^ 17
    omega
  | faulted _ _ hf => exact stateInv_faultedState hs (faultOf_legal hf)
  | completed hfault hw =>
    have hpc := (fetch_eq_ok hw).1
    refine ⟨executed_wf hs.mem, executed_pc_le hpc hs.stack, executed_stack_le hpc hs.stack, fun r hr => ?_⟩
    rw [State.tick_fault, executed_fault, hfault] at hr
    cases hr

/-! ### The host -/

/-- Storing bytes keeps the invariant. -/
theorem stateInv_storeBytes {s : State} (hs : StateInv s) (a : Nat) (bs : List Byte) : StateInv (s.storeBytes a bs) where
  mem := Memory.wf_writeBytes a bs hs.mem
  pc := hs.pc
  stack := hs.stack
  fault := hs.fault

/-- The invariant does not speak of the keypad latches or the random input. -/
theorem stateInv_setKeys {s : State} (hs : StateInv s) (keys : Vector Bool 16) : StateInv (s.setKeys keys) :=
  ⟨hs.mem, hs.pc, hs.stack, hs.fault⟩

theorem stateInv_lineUpRnd {s : State} (hs : StateInv s) (bytes : List Byte) : StateInv (s.lineUpRnd bytes) :=
  ⟨hs.mem, hs.pc, hs.stack, hs.fault⟩

theorem stateInv_load {s : State} (hs : StateInv s) (bytes : List Byte) : StateInv (s.load bytes).1 := by
  unfold State.load
  split
  · exact hs
  · exact stateInv_storeBytes hs _ _

/-- `cycle(rnd)` is a step with a byte lined up before it and the driver's bytes after it. -/
theorem stateInv_cycle {s t : State} {rnd : Byte} {status : Status} (hs : StateInv s)
    (h : cycle rnd s = .next (t, status)) : StateInv t := by
  obtain ⟨u, hu, -⟩ := exists_step (s.giveRnd rnd)
  cases (cycle_of_step hu).symm.trans h
  exact stateInv_lineUpRnd (stepKeepsInvariant _ u (stateInv_lineUpRnd hs [rnd]) hu) s.rndIn

/-- Settles O23: each operation keeps the invariant by a lemma of its own. -/
theorem hostOperationsKeepInvariant : Obligations.HostOperationsKeepInvariant := fun s hs =>
  ⟨invariantAtReset s.params, stateInv_load hs, stateInv_setKeys hs, stateInv_lineUpRnd hs, fun _ _ _ => stateInv_cycle hs⟩

/-- Settles O24: it holds at reset, and every operation keeps it. -/
theorem reachableStatesMeetInvariant : Obligations.ReachableStatesMeetInvariant := by
  intro s h
  induction h with
  | first params => exact invariantAtReset params
  | reset => exact invariantAtReset _
  | step _ ht ih => exact stepKeepsInvariant _ _ ih ht
  | cycle _ ht ih => exact stateInv_cycle ih ht
  | load _ bytes ih => exact stateInv_load ih bytes
  | keys _ keys ih => exact stateInv_setKeys ih keys
  | lineUp _ bytes ih => exact stateInv_lineUpRnd ih bytes

end Sys2Proof.Machine
end

section
/-! Memory (20_memory.md, 70_reset_and_hazards.md): the canonical form is one, accesses that leave memory, code that stores over
itself, a block stored and loaded again, `load()` and the reset contents. -/

namespace Sys2Proof.Machine

/-! ### The canonical form -/

theorem Memory.wfFrom_cons {p : Params} {lo k : Nat} {b : Byte} {m : Memory} :
    Memory.wfFrom p lo ((k, b) :: m) = true ↔
      lo ≤ k ∧ k < 4096 ∧ b ≠ Memory.unlisted p k ∧ Memory.wfFrom p (k + 1) m = true := by
  simp [Memory.wfFrom, and_assoc]

/-- A list whose bytes are the unlisted ones lists nothing. -/
theorem Memory.not_listed {p : Params} {lo k : Nat} {b : Byte} {m : Memory} (h : Memory.wfFrom p lo ((k, b) :: m) = true) :
    k < 4096 ∧ Memory.read p ((k, b) :: m) k ≠ Memory.unlisted p k := by
  obtain ⟨-, hk, hb, -⟩ := Memory.wfFrom_cons.mp h
  exact ⟨hk, by simpa [Memory.read] using hb⟩

/-- Of two canonical lists whose bytes read alike, neither starts before the other: below its first address a list reads as
unlisted. -/
theorem Memory.first_le_of_read_eq {p : Params} {lo lo' k k' : Nat} {b b' : Byte} {m m' : Memory}
    (h : Memory.wfFrom p lo ((k, b) :: m) = true) (h' : Memory.wfFrom p lo' ((k', b') :: m') = true)
    (heq : ∀ a, a < 4096 → Memory.read p ((k, b) :: m) a = Memory.read p ((k', b') :: m') a) : k' ≤ k := by
  by_contra hlt
  obtain ⟨hk, hne⟩ := Memory.not_listed h
  obtain ⟨-, hrest⟩ := Memory.wfFrom_cons.mp h'
  have hfrom : Memory.wfFrom p k' ((k', b') :: m') = true := Memory.wfFrom_cons.mpr ⟨le_rfl, hrest⟩
  exact hne ((heq k hk).trans (Memory.read_below hfrom (by omega)))

/-- Past its first address a list reads as its rest, and so does it before that address when the rest is read there. -/
theorem Memory.read_rest_eq {p : Params} {k a : Nat} {b : Byte} {m m' : Memory} (h : Memory.wfFrom p (k + 1) m = true)
    (h' : Memory.wfFrom p (k + 1) m' = true) (heq : Memory.read p ((k, b) :: m) a = Memory.read p ((k, b) :: m') a) :
    Memory.read p m a = Memory.read p m' a := by
  by_cases hk : k = a
  · rw [Memory.read_below h (by omega), Memory.read_below h' (by omega)]
  · simpa [Memory.read, hk] using heq

/-- Canonical lists whose bytes read alike are the same: they start at the same address, with the same byte. -/
theorem Memory.eq_of_read_eq {p : Params} {lo : Nat} {m m' : Memory} (h : Memory.wfFrom p lo m = true)
    (h' : Memory.wfFrom p lo m' = true) (heq : ∀ a, a < 4096 → Memory.read p m a = Memory.read p m' a) : m = m' := by
  induction m generalizing lo m' with
  | nil =>
    cases m' with
    | nil => rfl
    | cons c m' =>
      obtain ⟨hk, hne⟩ := Memory.not_listed h'
      exact absurd (heq _ hk).symm hne
  | cons c m ih =>
    cases m' with
    | nil =>
      obtain ⟨hk, hne⟩ := Memory.not_listed h
      exact absurd (heq _ hk) hne
    | cons c' m' =>
      obtain ⟨k, b⟩ := c
      obtain ⟨k', b'⟩ := c'
      obtain rfl : k = k' := Nat.le_antisymm (Memory.first_le_of_read_eq h' h fun a ha => (heq a ha).symm)
        (Memory.first_le_of_read_eq h h' heq)
      obtain ⟨-, hk, -, hrest⟩ := Memory.wfFrom_cons.mp h
      obtain ⟨-, -, -, hrest'⟩ := Memory.wfFrom_cons.mp h'
      obtain rfl : b = b' := by simpa [Memory.read] using heq k hk
      rw [ih hrest hrest' fun a ha => Memory.read_rest_eq hrest hrest' (heq a ha)]

/-- Settles O25: the canonical form is that of a list from address 0. -/
theorem equalBytesAreEqualMemories : Obligations.EqualBytesAreEqualMemories := fun _ _ _ => Memory.eq_of_read_eq

/-! ### What a completed cycle leaves alone -/

theorem CompletesAt.pc_eq {target : Word} {parts : List StatePart} {s t : State} (h : CompletesAt target parts s t) :
    t.pc = target := h.1

theorem CompletesAt.index_eq {target : Word} {parts : List StatePart} {s t : State} (h : CompletesAt target parts s t)
    (hindex : .index ∉ parts) : t.index = s.index := by
  obtain ⟨-, -, -, -, hkept, -⟩ := h
  exact hkept hindex

theorem CompletesAt.fault_eq {target : Word} {parts : List StatePart} {s t : State} (h : CompletesAt target parts s t) :
    t.fault = s.fault := by
  obtain ⟨-, -, -, -, -, -, -, -, -, -, -, hfault, -⟩ := h
  exact hfault

/-! ### Accesses that leave memory -/

/-- Settles O26: each of the four is behind a range check. -/
theorem rangeFaultBeforeAnyEffect : Obligations.RangeFaultBeforeAnyEffect := by
  intro x y n s
  refine ⟨fun hn h => ?_, fun h => withRange_faults s _ (by omega) h, fun h => ⟨withRange_faults s _ (by omega) h,
    withRange_faults s _ (by omega) h⟩⟩
  have hrows : n.toNat ≠ 0 := fun e => hn (BitVec.eq_of_toNat_eq e)
  exact withRange_faults s _ (by omega) h

/-! ### A block stored and read again -/

/-- After a block of registers is stored in range, each byte stands at its place, and the cycle changed memory only. -/
theorem exec_ldMemVx_stores {x : Reg} {s : State} (hw : Memory.wf s.params s.mem = true) (h : s.index.toNat + x.val ≤ 4095) :
    ∃ t, exec (.ldMemVx x) s = .next t ∧
      (∀ k : Reg, k ≤ x → Memory.read t.params t.mem (s.index.toNat + k.val) = s.getV k) ∧
      CompletesAt (s.pc + 2#16) [.mem] s t := by
  obtain ⟨-, hstore, -⟩ := storeRegisterBlock x s
  obtain ⟨t, ht, hread, -, hframe⟩ := hstore h
  exact ⟨t, ht, hread hw, hframe⟩

/-- Settles O28: the load reads each byte where the store put it. -/
theorem storeThenLoadRestoresRegisters : Obligations.StoreThenLoadRestoresRegisters := by
  intro x s t u hw h ht hparams hmem hindex
  obtain ⟨t₁, ht₁, hstored, hframe⟩ := exec_ldMemVx_stores hw h
  cases ht₁.symm.trans ht
  have hsame : u.index = s.index := hindex.trans (hframe.index_eq (by simp))
  obtain ⟨-, hload, -⟩ := loadRegisterBlock x u
  obtain ⟨t', ht', hread, -⟩ := hload (by rw [hsame]; exact h)
  refine ⟨t', ht', fun k hk => ?_⟩
  rw [hread k hk, hsame, hparams, hmem]
  exact hstored k hk

/-- Settles O27: the two bytes after the store are the first two it wrote, and the next step fetches them. -/
theorem storedCodeIsFetchedNext : Obligations.StoredCodeIsFetchedNext := by
  intro x s hw hfault hx hindex hpc
  have hnext : s.index.toNat = s.pc.toNat + 2 := by
    rw [hindex]
    exact toNat_nextPc (by omega)
  obtain ⟨t, ht, hstored, hframe⟩ := exec_ldMemVx_stores (x := x) hw (by omega)
  have htpc : t.pc = s.index := hframe.pc_eq.trans hindex.symm
  have hfetch := fetch_of_in (s := t) (by rw [htpc]; omega)
  have h0 := hstored 0 (Fin.zero_le x)
  have h1 := hstored 1 (Fin.le_def.mpr hx)
  rw [htpc] at hfetch
  refine ⟨t, ht, (step_of_fetch (hframe.fault_eq.trans hfault) hfetch).trans ?_⟩
  rw [← h0, ← h1]
  rfl

/-! ### `load()` and `reset()` -/

/-- Settles O60: a load in the bound is a store of bytes inside memory. -/
theorem loadWritesProgramOrRefuses : Obligations.LoadWritesProgramOrRefuses := by
  intro bytes s
  refine ⟨fun h => ?_, fun h => if_pos h⟩
  have hload : s.load bytes = (s.storeBytes 0x200 bytes, .loadOk) := if_neg (Nat.not_lt.mpr h)
  rw [hload]
  exact ⟨rfl, rfl, fun hw => Memory.read_writeBytes_inside hw 0x200 bytes (by omega),
    fun _ hb => Memory.read_writeBytes_outside s.mem 0x200 bytes hb⟩

/-- Settles O59: memory lists nothing after a reset, so it reads as the font table and zero. -/
theorem resetValues : Obligations.ResetValues := by
  refine ⟨fun u => ?_, rfl, rfl, rfl⟩
  exact ⟨State.resetWith_getV u.params, rfl, rfl, fun k => by simp, rfl, rfl, rfl, fun k => by simp, fbCell_of_blank rfl,
    rfl, rfl, fun a => Memory.unlisted_outside, fun k => Memory.unlisted_font k⟩

end Sys2Proof.Machine
end

section
/-! Skips, jumps and call (40_skip.md, 41_jump_call.md): each instruction's words, its target and its frame. -/

namespace Sys2Proof.Machine

/-! ### Skips -/

/-- A skip on a condition that holds just when `p` does. -/
theorem skipIf_completes_ite {cond : Bool} {p : Prop} [Decidable p] (h : cond = true ↔ p) (s : State) :
    ∃ t, skipIf cond s = .next t ∧ CompletesAt (if p then s.pc + 4#16 else s.pc + 2#16) [] s t := by
  simpa only [h] using skipIf_completes cond s

/-- And one on a condition that fails just when `p` holds. -/
theorem skipIf_completes_ite_not {cond : Bool} {p : Prop} [Decidable p] (h : cond = false ↔ p) (s : State) :
    ∃ t, skipIf cond s = .next t ∧ CompletesAt (if p then s.pc + 2#16 else s.pc + 4#16) [] s t := by
  simpa only [← h, ← Bool.not_eq_true, ite_not] using skipIf_completes cond s

/-- Settles O29: the two skips on a byte and an immediate. -/
theorem skipOnImmediate : Obligations.SkipOnImmediate := by
  intro x kk s
  refine ⟨decode_ofNat rfl (by simp [encode]; omega), decode_ofNat rfl (by simp [encode]; omega),
    skipIf_completes_ite ?_ s, skipIf_completes_ite_not ?_ s⟩
  · rw [beq_iff_eq, BitVec.toNat_inj]
  · rw [bne_eq_false_iff_eq, BitVec.toNat_inj]

/-- Settles O30: the two skips on registers, whatever the low nibble. -/
theorem skipOnRegisters : Obligations.SkipOnRegisters := by
  intro x y n s
  refine ⟨decode_ofNat rfl (by simp [encode]; omega), decode_ofNat rfl (by simp [encode]; omega),
    skipIf_completes_ite ?_ s, skipIf_completes_ite_not ?_ s⟩
  · rw [beq_iff_eq, BitVec.toNat_inj]
  · rw [bne_eq_false_iff_eq, BitVec.toNat_inj]

/-- Settles O31: with a key number in range each is a skip on that key's latch. -/
theorem skipOnKey : Obligations.SkipOnKey := by
  intro x k s hk
  refine ⟨decode_ofNat rfl (by simp [encode]; omega), decode_ofNat rfl (by simp [encode]; omega), ?_, ?_⟩
  · simp only [exec, execSkpVx, withKey_of_in hk]
    exact skipIf_completes_ite Iff.rfl s
  · simp only [exec, execSknpVx, withKey_of_in hk]
    exact skipIf_completes_ite_not (by simp [State.key]) s

/-- Settles O32: the fault table has both key tests, whatever the latches. -/
theorem keyNumberAboveFifteenFaults : Obligations.KeyNumberAboveFifteenFaults := fun _ s h =>
  ⟨(exec_eq_endOf _ s).trans (endOf_of_fault (if_pos h)), (exec_eq_endOf _ s).trans (endOf_of_fault (if_pos h))⟩

/-! ### Jumps and call -/

/-- A jump changes `PC` only. -/
theorem setPc_completes (w : Word) (s : State) : CompletesAt w [] s (s.setPc w).tick := by
  simp [CompletesAt, TickedFrom, OnlyChanges]

theorem addrOf_eq_ofNat (nnn : Addr) : addrOf nnn = BitVec.ofNat 16 nnn.toNat := by
  apply BitVec.eq_of_toNat_eq
  have := nnn.isLt
  rw [toNat_addrOf, BitVec.toNat_ofNat]
  omega

/-- Settles O33: the two targets as numbers. -/
theorem jumpsGoToTarget : Obligations.JumpsGoToTarget := by
  intro nnn s
  refine ⟨decode_ofNat rfl (by simp [encode]), decode_ofNat rfl (by simp [encode]), ⟨_, rfl, ?_⟩,
    _, rfl, toNat_jumpV0Target nnn s, setPc_completes _ s⟩
  rw [← addrOf_eq_ofNat]
  exact setPc_completes _ s

/-- A call changes `PC` and the stack only. -/
theorem push_setPc_completes {s : State} (h : s.sp.val < 16) (w target : Word) :
    CompletesAt target [.stack, .sp] s ((s.push h w).setPc target).tick := by
  simp [CompletesAt, TickedFrom, OnlyChanges]

/-- Settles O34: the entry that `SP` names is the one written; with no room it is the stack fault. -/
theorem callPushesReturnAddress : Obligations.CallPushesReturnAddress := by
  intro nnn s
  refine ⟨decode_ofNat rfl (by simp [encode]), fun h => ?_, fun h => ?_⟩
  · refine ⟨_, exec_callNnn_of_room nnn h, rfl, fun k => ?_, ?_⟩
    · simp [Vector.getElem_set, eq_comm]
    · rw [← addrOf_eq_ofNat]
      exact push_setPc_completes h _ _
  · exact (exec_eq_endOf _ s).trans (endOf_of_fault (if_pos h))

end Sys2Proof.Machine
end

section
/-! Register results (42_alu.md, 45_timer_key.md R160): each is one write of the result, without or with a flag. -/

namespace Sys2Proof.Machine

/-- Settles O37: one register result. -/
theorem loadImmediate : Obligations.LoadImmediate := fun x kk s =>
  ⟨decode_ofNat rfl (by simp [encode]; omega), putV_completes x kk s⟩

/-- A register result, known by its bits. -/
theorem putV_completes_bits {x : Reg} {b : Byte} {f : Nat → Bool} (h : ∀ i, i < 8 → b.getLsbD i = f i) (s : State) :
    ∃ t, putV x b s = .next t ∧ (∀ i, i < 8 → (t.getV x).getLsbD i = f i) ∧ CompletesAt (s.pc + 2#16) [.v x] s t := by
  obtain ⟨t, ht, hresult, hframe⟩ := putV_completes x b s
  exact ⟨t, ht, fun i hi => hresult ▸ h i hi, hframe⟩

/-- Settles O39: a register result without a flag, its bits those of the operation. -/
theorem copyAndLogicWriteNoFlag : Obligations.CopyAndLogicWriteNoFlag := by
  intro x y s
  exact ⟨decode_ofNat rfl (by simp [encode]; omega), decode_ofNat rfl (by simp [encode]; omega),
    decode_ofNat rfl (by simp [encode]; omega), decode_ofNat rfl (by simp [encode]; omega), putV_completes x _ s,
    putV_completes_bits (fun _ _ => BitVec.getLsbD_or) s, putV_completes_bits (fun _ _ => BitVec.getLsbD_and) s,
    putV_completes_bits (fun _ _ => BitVec.getLsbD_xor) s⟩

/-- A register result with a flag, both known as numbers. -/
theorem putFlagged_completes_toNat {x : Reg} {flag : Bool} {b : Byte} {result flagValue : Nat} (hb : b.toNat = result)
    (hf : (if flag = true then 1 else 0) = flagValue) (s : State) :
    ∃ t, putFlagged x flag b s = .next t ∧ (t.getV x).toNat = result ∧
      (x ≠ 15 → (t.getV 15).toNat = flagValue) ∧ CompletesAt (s.pc + 2#16) [.v x, .v 15] s t := by
  obtain ⟨t, ht, hresult, hflag, hframe⟩ := putFlagged_completes x flag b s
  exact ⟨t, ht, by rw [hresult, hb], fun hx => by rw [hflag hx, toNat_flagByte, hf], hframe⟩

/-- Settles O40: the 8-bit sum, and a carry just when the true sum passes 255. -/
theorem addSetsCarry : Obligations.AddSetsCarry := fun _ _ s =>
  ⟨decode_ofNat rfl (by simp [encode]; omega), putFlagged_completes_toNat (BitVec.toNat_add _ _) (by simp [carry]) s⟩

/-- The 8-bit difference as one of integers modulo 256 (42_alu.md R121). -/
theorem toNat_diff8 (a b : Byte) : ((diff8 a b).toNat : Int) = ((a.toNat : Int) - (b.toNat : Int)) % 256 := by
  have ha := a.isLt
  have hb := b.isLt
  rw [diff8, BitVec.toNat_sub]
  omega

/-- Subtraction in either order, with its flag. -/
theorem putFlagged_diff8 (x : Reg) (a b : Byte) (s : State) :
    ∃ t, putFlagged x (noBorrow a b) (diff8 a b) s = .next t ∧
      ((t.getV x).toNat : Int) = ((a.toNat : Int) - (b.toNat : Int)) % 256 ∧
      (x ≠ 15 → (t.getV 15).toNat = if b.toNat ≤ a.toNat then 1 else 0) ∧
      CompletesAt (s.pc + 2#16) [.v x, .v 15] s t := by
  rw [← toNat_diff8]
  simpa only [Nat.cast_inj] using putFlagged_completes_toNat rfl (by simp [noBorrow]) s

/-- Settles O41: the difference and its flag, for every register. -/
theorem subtractSetsNoBorrow : Obligations.SubtractSetsNoBorrow := fun x _ s =>
  ⟨decode_ofNat rfl (by simp [encode]; omega), putFlagged_diff8 x _ _ s⟩

/-- Settles O42: the same with the operands exchanged. -/
theorem reverseSubtractSetsNoBorrow : Obligations.ReverseSubtractSetsNoBorrow := fun x _ s =>
  ⟨decode_ofNat rfl (by simp [encode]; omega), putFlagged_diff8 x _ _ s⟩

/-- Bit `k` of a byte as a number. -/
theorem toNat_getLsbD (a : Byte) (k : Nat) : (if a.getLsbD k = true then 1 else 0) = a.toNat / 2 ^ k % 2 := by
  simp only [BitVec.getLsbD, Nat.testBit_eq_decide_div_mod_eq, decide_eq_true_eq]
  split <;> omega

/-- Settles O43: the shift as division or multiplication by two, and the flag as the bit at its end. -/
theorem shiftsCaptureBitShiftedOut : Obligations.ShiftsCaptureBitShiftedOut := by
  intro x y s
  have hbyte := (s.getV x).isLt
  have hhalf : (half8 (s.getV x)).toNat = (s.getV x).toNat / 2 := by simp [half8, Nat.shiftRight_eq_div_pow]
  have hdouble : (double8 (s.getV x)).toNat = (s.getV x).toNat * 2 % 256 := by simp [double8, Nat.shiftLeft_eq]
  refine ⟨decode_ofNat rfl (by simp [encode]; omega), decode_ofNat rfl (by simp [encode]; omega),
    putFlagged_completes_toNat hhalf ?_ s, putFlagged_completes_toNat hdouble ?_ s⟩
  · exact (toNat_getLsbD _ 0).trans (by simp)
  · exact (toNat_getLsbD _ 7).trans (by omega)

/-- Settles O54: the register result is the timer before the tick. -/
theorem readDelayTimerBeforeTick : Obligations.ReadDelayTimerBeforeTick := fun x s =>
  ⟨(decode_ofNat_familyF x 0x07#8).trans (by simp [decodeFamilyF]), putV_completes x s.dt s⟩

/-- A random byte drawn and masked changes the destination and the random input only. -/
theorem consumeRnd_setV_completes (x : Reg) (b : Byte) (s : State) :
    CompletesAt (s.pc + 2#16) [.v x, .rnd] s (s.consumeRnd.setV x b).advance.tick := by
  simp only [CompletesAt, TickedFrom, OnlyChanges]
  simp
  exact fun r hr => State.getV_setV_other _ b (Ne.symm hr)

/-- Settles O44: the byte drawn is the head of those lined up, which in a cycle is the byte given. -/
theorem randomByteIsMasked : Obligations.RandomByteIsMasked := by
  intro x kk s
  have hdecode : decode (BitVec.ofNat 16 (0xC000 + 0x100 * x.val + kk.toNat)) = .rndVxKk x kk :=
    decode_ofNat rfl (by simp [encode]; omega)
  refine ⟨hdecode, ⟨_, rfl, State.getV_setV_same _ x _, rfl, rfl, consumeRnd_setV_completes x _ s⟩,
    fun rnd hfault hfetch => ?_⟩
  have hcycle := cycle_of_fetch (rnd := rnd) hfault hfetch (by rw [hdecode]; rfl)
  rw [cycleStatus_done hfetch (by rw [hdecode]; rfl) (by exact hfault)] at hcycle
  exact ⟨_, hcycle, State.getV_setV_same _ x _⟩

end Sys2Proof.Machine
end

section
/-! The index register and the timers (44_index_memory.md R150 to R152, 45_timer_key.md R161, R162). -/

namespace Sys2Proof.Machine

/-- An index result changes the index register only. -/
theorem setIndex_completes (w : Word) (s : State) : CompletesAt (s.pc + 2#16) [.index] s (s.setIndex w).advance.tick := by
  simp [CompletesAt, TickedFrom, OnlyChanges]

/-- Settles O49: the two addresses as numbers, neither of which wraps. -/
theorem indexLoads : Obligations.IndexLoads := by
  intro nnn x s
  have hfits : glyphAddr x s < 2 ^ 16 := by
    have hbase := s.params.fontBase.isLt
    have hx := (s.getV x).isLt
    unfold glyphAddr
    omega
  refine ⟨decode_ofNat rfl (by simp [encode]), (decode_ofNat_familyF x 0x29#8).trans (by simp [decodeFamilyF]),
    ⟨_, rfl, toNat_addrOf nnn, setIndex_completes _ s⟩, _, rfl, ?_, setIndex_completes _ s⟩
  exact Nat.mod_eq_of_lt hfits

/-- Settles O50: the sum where it fits, and the fault where it does not. -/
theorem addToIndexOrFault : Obligations.AddToIndexOrFault := by
  intro x s
  refine ⟨(decode_ofNat_familyF x 0x1E#8).trans (by simp [decodeFamilyF]), fun h => ?_, fun h => ?_⟩
  · exact ⟨_, if_neg (Nat.not_lt.mpr h), Nat.mod_eq_of_lt (Nat.lt_succ_of_le h), setIndex_completes _ s⟩
  · exact (if_pos h).trans (raise_eq _ _ s)

/-- Settles O55: the write and then the tick of that timer, and of the other. -/
theorem setTimersThenTick : Obligations.SetTimersThenTick := by
  intro x s
  refine ⟨(decode_ofNat_familyF x 0x15#8).trans (by simp [decodeFamilyF]),
    (decode_ofNat_familyF x 0x18#8).trans (by simp [decodeFamilyF]), ⟨_, rfl, rfl, ?_⟩, _, rfl, rfl, ?_⟩
  · simp [TickedFrom, OnlyChanges]
  · simp [TickedFrom, OnlyChanges]

end Sys2Proof.Machine
end

section
/-! The framebuffer (10_state.md R29) and `Dxyn` (43_display.md R141 to R143): which cells a sprite inverts, when it collides, and
that a second drawing undoes the first. -/

namespace Sys2Proof.Machine

/-! ### Cells -/

/-- Two states have the same cell just when it is lit in both or in neither. -/
theorem fbCell_eq_fbCell {s t : State} {p : Pixel} : s.fbCell p = t.fbCell p ↔ Screen.lit s.fb p = Screen.lit t.fb p := by
  unfold State.fbCell
  cases Screen.lit s.fb p <;> cases Screen.lit t.fb p <;> decide

/-- A cell that changes between lit and unlit has its 32 bits inverted. -/
theorem fbCell_eq_inverted {s t : State} {p : Pixel} (h : Screen.lit t.fb p = !Screen.lit s.fb p) :
    t.fbCell p = s.fbCell p ^^^ 0xFFFFFFFF#32 := by
  unfold State.fbCell
  rw [h]
  cases Screen.lit s.fb p <;> decide

/-- Settles O46: a cell reads as lit or unlit, and the cells lit are the framebuffer. -/
theorem framebufferCellsAreTwoValued : Obligations.FramebufferCellsAreTwoValued := by
  intro s
  refine ⟨fun p => ?_, fun t h => Screen.ext fun p => fbCell_eq_fbCell.mp (h p)⟩
  rw [fbCell_eq_on, fbCell_eq_off, ← Bool.not_eq_true]
  exact Classical.em _

/-! ### Drawing -/

/-- A drawing whose rows are in memory, or that has none, completes. -/
theorem exec_drwVxVyN_of_in {x y : Reg} {n : Nibble} {s : State} (h : n = 0 ∨ s.index.toNat + n.toNat ≤ 4096) :
    exec (.drwVxVyN x y n) s = complete (executed (.drwVxVyN x y n) s) :=
  withRange_of_in s _ (h.imp_left fun hn => congrArg BitVec.toNat hn)

/-- It changes the framebuffer and VF only. -/
theorem executed_drwVxVyN_completes (x y : Reg) (n : Nibble) (s : State) :
    CompletesAt (s.pc + 2#16) [.fb, .v 15] s (executed (.drwVxVyN x y n) s).tick := by
  simp only [CompletesAt, TickedFrom, OnlyChanges, executed]
  simp
  exact fun r hr => State.getV_setV_other _ _ (Ne.symm hr)

/-- VF is the collision flag. -/
theorem getV_executed_drwVxVyN (x y : Reg) (n : Nibble) (s : State) :
    ((executed (.drwVxVyN x y n) s).getV 15).toNat = if (drwBlit x y n s).2 = true then 1 else 0 :=
  (congrArg BitVec.toNat (State.getV_setV_same _ regVF _)).trans (toNat_flagByte _)

theorem lit_drwBlit (x y : Reg) (n : Nibble) (s : State) (p : Pixel) :
    (SpriteCovers x y n s p → Screen.lit (drwBlit x y n s).1 p = !Screen.lit s.fb p) ∧
    (¬ SpriteCovers x y n s p → Screen.lit (drwBlit x y n s).1 p = Screen.lit s.fb p) := by
  have hmem : p ∈ drwPixels x y n s ↔ SpriteCovers x y n s p := mem_drwPixels x y n s p
  rw [drwBlit, Screen.lit_blit (nodup_drwPixels x y n s), ← hmem]
  exact ⟨fun h => by simp [h], fun h => by simp [h]⟩

/-- A drawing collides just when a cell under the sprite was lit. -/
theorem drwBlit_collision (x y : Reg) (n : Nibble) (s : State) :
    (drwBlit x y n s).2 = true ↔ ∃ p, SpriteCovers x y n s p ∧ Screen.lit s.fb p = true := by
  rw [drwBlit, Screen.blit_collision (nodup_drwPixels x y n s), List.any_eq_true]
  exact exists_congr fun p => and_congr_left' (mem_drwPixels x y n s p)

/-- Settles O47: the pixels drawn are those the sprite covers, each once. -/
theorem drawInvertsSpriteCells : Obligations.DrawInvertsSpriteCells := by
  intro x y n s h
  have hflag := getV_executed_drwVxVyN x y n s
  refine ⟨decode_ofNat rfl (by simp [encode]; omega), _, exec_drwVxVyN_of_in h,
    fun p hp => fbCell_eq_inverted ((lit_drwBlit x y n s p).1 hp),
    fun p hp => fbCell_eq_fbCell.mpr ((lit_drwBlit x y n s p).2 hp), ?_, ?_, executed_drwVxVyN_completes x y n s⟩
  · rw [State.tick_getV, hflag]
    split <;> simp
  · simp only [State.tick_getV, hflag, fbCell_eq_on, ← drwBlit_collision]
    simp

/-- What is drawn depends on the sprite's bytes and place only. -/
theorem drwPixels_congr {x y : Reg} {n : Nibble} {s u : State} (hparams : u.params = s.params) (hmem : u.mem = s.mem)
    (hindex : u.index = s.index) (hx : u.getV x = s.getV x) (hy : u.getV y = s.getV y) :
    drwPixels x y n u = drwPixels x y n s := by
  simp only [drwPixels, indexAddr, hparams, hmem, hindex, hx, hy]

/-- Drawing different pixels twice restores the screen. -/
theorem Screen.blit_blit {ps : List Pixel} (hn : ps.Nodup) (fb : Screen) :
    (Screen.blit ps (Screen.blit ps fb).1).1 = fb := by
  apply Screen.ext
  intro p
  rw [Screen.lit_blit hn, Screen.lit_blit hn, Bool.xor_assoc, Bool.xor_self, Bool.xor_false]

/-- Settles O48: the second drawing toggles the same pixels, which the first had lit. -/
theorem drawTwiceRestoresFramebuffer : Obligations.DrawTwiceRestoresFramebuffer := by
  intro x y n s t u h ht hfb hparams hmem hindex hx hy
  cases (exec_drwVxVyN_of_in (.inr h)).symm.trans ht
  have hpixels : drwPixels x y n u = drwPixels x y n s := drwPixels_congr hparams hmem hindex hx hy
  have hdrawn : u.fb = (drwBlit x y n s).1 := hfb
  refine ⟨_, exec_drwVxVyN_of_in (.inr (by rw [hindex]; exact h)), ?_, fun ⟨p, hp⟩ hunlit => ?_⟩
  · change (drwBlit x y n u).1 = s.fb
    rw [drwBlit, hpixels, hdrawn]
    exact Screen.blit_blit (nodup_drwPixels x y n s) s.fb
  · have hlit : Screen.lit u.fb p = true := by
      rw [hdrawn, (lit_drwBlit x y n s p).1 hp, (fbCell_eq_off s p).mp (hunlit p hp)]
      rfl
    have hcovers : SpriteCovers x y n u p := (mem_drwPixels x y n u p).mp (hpixels ▸ (mem_drwPixels x y n s p).mpr hp)
    rw [State.tick_getV, getV_executed_drwVxVyN, if_pos ((drwBlit_collision x y n u).mpr ⟨p, hcovers, hlit⟩)]

end Sys2Proof.Machine
end
